-- ==== Sys2Proof/Word.lean ====
section
/-! DEFINITION. The word and byte of the block: every register and every bus access is one 32-bit word
(spec/10_state.md section 2, spec/20_memory.md R70), and the block has no signed value (spec/00_scope.md R10). -/

namespace Sys2Proof

/-- A register, a bus word, a channel-state word or a timestamp: 32 bits, unsigned (R8, R9, R10). -/
abbrev Word := BitVec 32

/-- One byte lane of a word as a byte-addressing host sees it (R71). -/
abbrev Byte := BitVec 8

end Sys2Proof
end

