-- ==== Sys2Proof/Config.lean ====
section
/-! DEFINITION. What an implementation fixes, and the free values: the draws that the spec leaves open
(spec/00_scope.md R8, R9; spec/92_eei_decisions.md, "Open parameters"). -/

namespace Sys2Proof.Config

/-- The identity constant of interface version 1 (R9, R21). -/
def idValue : Word := 0x4A4C4143#32

/-- The trigger back-off margin of the UART region, in samples (R8, R177). -/
def uartBackoff : Nat := 10

/-- N_MAX of `State.reset`. The spec leaves the parameter open in 1 .. 2^21 (R9, I18); State holds it in its own
field, so a statement about every state holds for every capacity. DESIGN CHOICE 1: unsafe where a statement is
about `State.reset` alone. -/
def nMax : Word := 0x200000#32

/-- E_MAX of `State.reset`, open in 1 .. 2^21 in the same way (R9, I18). DESIGN CHOICE 1: unsafe where a
statement is about `State.reset` alone. -/
def eMax : Word := 0x200000#32

/-- The draw of a read that R52 and R75 leave open (a count or an event-window word while BUSY = 1): any 32-bit
value, a fresh one for every read. Free value, assumption 2. -/
opaque busyRead : Nat → Word

/-- The draw of an intermediate PROGRESS value (R222), before it is bounded to 0 .. 100 and to no less than the
value before it. Free value, assumption 3. -/
opaque progressDraw : Nat → Nat

end Sys2Proof.Config
end

