-- ==== Sys2Proof/Syntax.lean ====
section
/-! DEFINITION. The operations of the block, one constructor per row of spec/opcode_table.json: the nine CMD rows
(spec/30_encoding.md R90 to R92) and the nineteen MMIO rows (R94). An MMIO operation carries the written word. -/

namespace Sys2Proof

/-- An operation: a bus write that the block gives an effect of its own. -/
inductive Instr where
  /-- NOP (R224) -/
  | nop
  /-- STORE_CLEAR (R115) -/
  | storeClear
  /-- STORE_COMMIT (R121) -/
  | storeCommit
  /-- QUERY_INDEX (R128) -/
  | queryIndex
  /-- QUERY_VALUE (R130) -/
  | queryValue
  /-- ESTIMATE_BAUD (R146) -/
  | estimateBaud
  /-- DECODE_SPI (R155) -/
  | decodeSpi
  /-- DECODE_UART (R175) -/
  | decodeUart
  /-- ILLEGAL_CMD (reserved): a command word with RSVD != 0 or OPC in 0x08 .. 0xFF (R92) -/
  | illegalCmd (opc : BitVec 8) (rsvd : BitVec 24)
  /-- STATUS_W1C (R25) -/
  | statusW1c (w : Word)
  /-- CTRL_WR (R26) -/
  | ctrlWr (w : Word)
  /-- ARG0_WR (R28) -/
  | arg0Wr (w : Word)
  /-- ST_ABSLEN_WR (R35) -/
  | stAbslenWr (w : Word)
  /-- ST_TRIGGER_WR (R36) -/
  | stTriggerWr (w : Word)
  /-- ST_RATE_WR (R37) -/
  | stRateWr (w : Word)
  /-- ST_CFG_WR (R38) -/
  | stCfgWr (w : Word)
  /-- ST_ENMASK_WR (R39) -/
  | stEnmaskWr (w : Word)
  /-- CURSOR_CTL_WR (R40) -/
  | cursorCtlWr (w : Word)
  /-- CURSOR_A_WR (R41) -/
  | cursorAWr (w : Word)
  /-- CURSOR_B_WR (R41) -/
  | cursorBWr (w : Word)
  /-- PUSH_VALUE_WR (R42) -/
  | pushValueWr (w : Word)
  /-- PUSH_TS: append a transition (R117) -/
  | pushTs (t : Word)
  /-- RAW_SAMPLE: append a raw sample (R119) -/
  | rawSample (v : Word)
  /-- SPI_CH_WR (R44) -/
  | spiChWr (w : Word)
  /-- SPI_MODE_WR (R45) -/
  | spiModeWr (w : Word)
  /-- UART_CFG_WR (R53) -/
  | uartCfgWr (w : Word)
  /-- UART_LINES0_WR (R54) -/
  | uartLines0Wr (w : Word)
  /-- UART_LINES1_WR (R54) -/
  | uartLines1Wr (w : Word)
  deriving DecidableEq, Repr

end Sys2Proof
end

