-- ==== Sys2Proof/WellFormed.lean ====
section
/-! DEFINITION. Which terms of `Instr` stand for a bus write. The only check: the operand of `illegalCmd` is a
reserved command word (spec/30_encoding.md R92); every written word of an MMIO operation is legal (R94). -/

namespace Sys2Proof

/-- A command word is reserved iff RSVD != 0 or OPC >= 0x08 (R92). -/
def reservedCommand (opc : BitVec 8) (rsvd : BitVec 24) : Bool :=
  rsvd != 0#24 || decide (8 ≤ opc.toNat)

/-- `illegalCmd` holds a reserved word; every other operation is well formed as it stands. -/
def Instr.wellFormed : Instr → Bool
  | .illegalCmd opc rsvd => reservedCommand opc rsvd
  | .nop | .storeClear | .storeCommit | .queryIndex | .queryValue | .estimateBaud | .decodeSpi | .decodeUart => true
  | .statusW1c _ | .ctrlWr _ | .arg0Wr _ | .stAbslenWr _ | .stTriggerWr _ | .stRateWr _ | .stCfgWr _ => true
  | .stEnmaskWr _ | .cursorCtlWr _ | .cursorAWr _ | .cursorBWr _ | .pushValueWr _ | .pushTs _ | .rawSample _ => true
  | .spiChWr _ | .spiModeWr _ | .uartCfgWr _ | .uartLines0Wr _ | .uartLines1Wr _ => true

end Sys2Proof
end

