-- ==== Sys2Proof/Decode.lean ====
section
/-! DEFINITION. Decoding a bus write (spec/30_encoding.md R90 to R95, spec/20_memory.md R70 to R73), total on any
access and rejecting by name, and the encoder of a well-formed operation. -/

namespace Sys2Proof

/-- The width of a bus access. The block answers word accesses only; the sub-word widths exist to be refused (R70, R72). -/
inductive AccessSize where
  | byte
  | half
  | word
  deriving DecidableEq, Repr

/-- A host write: its width, its byte offset from BLOCK_BASE (R70, R73) and its data word. -/
structure BusWrite where
  size : AccessSize
  addr : Word
  data : Word
  deriving DecidableEq, Repr

/-- Why a bus write is no operation of the block. -/
inductive WriteReject where
  /-- narrower than a word (R72): dropped, BUS_ERR -/
  | subWord
  /-- not word-aligned (R72): dropped, BUS_ERR -/
  | misaligned
  /-- a read-only register (spec/10_state.md section 2, I20): ignored, no flag -/
  | readOnlyRegister
  /-- an offset of the register block that no register has (R72): dropped, BUS_ERR -/
  | reservedOffset
  /-- the transition or the event window (R72): dropped, BUS_ERR -/
  | readOnlyWindow
  /-- outside every region of R73 (R72): dropped, BUS_ERR -/
  | outsideRegions
  deriving DecidableEq, Repr

/-- What a bus write decodes to. -/
inductive Decoded where
  | operation (i : Instr)
  | rejected (r : WriteReject)
  deriving DecidableEq, Repr

/-! ## The command word (R90 to R92) -/

/-- OPC, bits 7:0 of a command word (R90). -/
def cmdOpc (w : Word) : BitVec 8 := w.extractLsb' 0 8

/-- RSVD, bits 31:8 of a command word (R90). -/
def cmdRsvd (w : Word) : BitVec 24 := w.extractLsb' 8 24

/-- The command map of R91; every other word is reserved (R92). -/
def decodeCmd (w : Word) : Instr :=
  if reservedCommand (cmdOpc w) (cmdRsvd w) then .illegalCmd (cmdOpc w) (cmdRsvd w)
  else
    match (cmdOpc w).toNat with
    | 0 => .nop
    | 1 => .storeClear
    | 2 => .storeCommit
    | 3 => .queryIndex
    | 4 => .queryValue
    | 5 => .estimateBaud
    | 6 => .decodeSpi
    | _ => .decodeUart

/-! ## The target offset (R94, spec/10_state.md section 2) -/

/-- Offset of CMD (R24). -/
def cmdOffset : Nat := 0x010

/-- The writable register at an offset, other than CMD (spec/opcode_table.json, format MMIO). -/
def decodeMmio (offset : Nat) (w : Word) : Option Instr :=
  match offset with
  | 0x014 => some (.statusW1c w)
  | 0x018 => some (.ctrlWr w)
  | 0x020 => some (.arg0Wr w)
  | 0x044 => some (.stAbslenWr w)
  | 0x048 => some (.stTriggerWr w)
  | 0x04C => some (.stRateWr w)
  | 0x050 => some (.stCfgWr w)
  | 0x054 => some (.stEnmaskWr w)
  | 0x058 => some (.cursorCtlWr w)
  | 0x05C => some (.cursorAWr w)
  | 0x060 => some (.cursorBWr w)
  | 0x064 => some (.pushValueWr w)
  | 0x068 => some (.pushTs w)
  | 0x06C => some (.rawSample w)
  | 0x080 => some (.spiChWr w)
  | 0x084 => some (.spiModeWr w)
  | 0x088 => some (.uartCfgWr w)
  | 0x08C => some (.uartLines0Wr w)
  | 0x090 => some (.uartLines1Wr w)
  | _ => none

/-- Offsets of the read-only registers: ID, NMAX, EMAX, ERRCODE, RESULT0 to RESULT2, PROGRESS, EVT_COUNT,
SYM_COUNT, ERR_COUNT, ST_NTRANS, RAW_COUNT, BAUD_RX and BAUD_TX (spec/10_state.md section 2). -/
def readOnlyOffsets : List Nat :=
  [0x000, 0x004, 0x008, 0x01C, 0x024, 0x028, 0x02C, 0x030, 0x034, 0x038, 0x03C, 0x040, 0x070, 0x094, 0x098]

/-- First offset past the register block (R73). -/
def registerBlockEnd : Nat := 0x100

/-- The transition window is 0x0100_0000 .. 0x01FF_FFFF (R73). -/
def inTransitionWindow (offset : Nat) : Bool := decide (0x01000000 ≤ offset) && decide (offset < 0x02000000)

/-- The event window is 0x0200_0000 .. 0x02FF_FFFF (R73). -/
def inEventWindow (offset : Nat) : Bool := decide (0x02000000 ≤ offset) && decide (offset < 0x03000000)

/-- Why an aligned word write to an offset with no writable register is rejected (R72, R73). An offset past the 64 MiB
region is outside every region: DEDUCED, assumption 13. -/
def rejectAt (offset : Nat) : WriteReject :=
  if readOnlyOffsets.contains offset then .readOnlyRegister
  else if offset < registerBlockEnd then .reservedOffset
  else if inTransitionWindow offset || inEventWindow offset then .readOnlyWindow
  else .outsideRegions

/-- Decode a bus write: the target offset tells the format (R95), 0x010 is CMD and any other register is MMIO. -/
def decodeWrite (b : BusWrite) : Decoded :=
  if b.size ≠ .word then .rejected .subWord
  else if b.addr.toNat % 4 ≠ 0 then .rejected .misaligned
  else if b.addr.toNat = cmdOffset then .operation (decodeCmd b.data)
  else
    match decodeMmio b.addr.toNat b.data with
    | some i => .operation i
    | none => .rejected (rejectAt b.addr.toNat)

/-! ## The encoder -/

/-- A word write of `data` to the register at `offset`. -/
def wordWrite (offset : Nat) (data : Word) : BusWrite :=
  { size := .word, addr := BitVec.ofNat 32 offset, data := data }

/-- The command word of a CMD operation (R90, R91): RSVD above OPC. -/
def encodeCmd (opc : BitVec 8) (rsvd : BitVec 24) : BusWrite :=
  wordWrite cmdOffset (rsvd ++ opc)

/-- The bus write of a well-formed operation (R91, R94). -/
def encode : Instr → BusWrite
  | .nop => encodeCmd 0x00#8 0#24
  | .storeClear => encodeCmd 0x01#8 0#24
  | .storeCommit => encodeCmd 0x02#8 0#24
  | .queryIndex => encodeCmd 0x03#8 0#24
  | .queryValue => encodeCmd 0x04#8 0#24
  | .estimateBaud => encodeCmd 0x05#8 0#24
  | .decodeSpi => encodeCmd 0x06#8 0#24
  | .decodeUart => encodeCmd 0x07#8 0#24
  | .illegalCmd opc rsvd => encodeCmd opc rsvd
  | .statusW1c w => wordWrite 0x014 w
  | .ctrlWr w => wordWrite 0x018 w
  | .arg0Wr w => wordWrite 0x020 w
  | .stAbslenWr w => wordWrite 0x044 w
  | .stTriggerWr w => wordWrite 0x048 w
  | .stRateWr w => wordWrite 0x04C w
  | .stCfgWr w => wordWrite 0x050 w
  | .stEnmaskWr w => wordWrite 0x054 w
  | .cursorCtlWr w => wordWrite 0x058 w
  | .cursorAWr w => wordWrite 0x05C w
  | .cursorBWr w => wordWrite 0x060 w
  | .pushValueWr w => wordWrite 0x064 w
  | .pushTs t => wordWrite 0x068 t
  | .rawSample v => wordWrite 0x06C v
  | .spiChWr w => wordWrite 0x080 w
  | .spiModeWr w => wordWrite 0x084 w
  | .uartCfgWr w => wordWrite 0x088 w
  | .uartLines0Wr w => wordWrite 0x08C w
  | .uartLines1Wr w => wordWrite 0x090 w

/-! ## The opcode table's numbering -/

/-- The offset bits that the table's mask 0x03FFFFFF selects: an offset in the 64 MiB region (R73). -/
def tableOffset (w : Nat) : Nat := w % 0x4000000

/-- The bus write that a word of spec/opcode_table.json stands for. The table numbers a CMD row by the bits of the
written word and an MMIO row by the bits of its offset, whose written word it gives no bits. A number whose low 26
bits are the offset of an MMIO row is that row; any other number is a command word. DEDUCED, assumption 4. -/
def tableWrite (nbits w : Nat) : BusWrite :=
  let bits := w % 2 ^ nbits
  if (decodeMmio (tableOffset bits) 0#32).isSome then
    wordWrite (tableOffset bits) (BitVec.ofNat 32 (bits / 0x100000000))
  else wordWrite cmdOffset (BitVec.ofNat 32 bits)

/-- The operation the decoder reads from a word numbered as spec/opcode_table.json numbers it. -/
def decodeTableWord (nbits w : Nat) : Option Instr :=
  match decodeWrite (tableWrite nbits w) with
  | .operation i => some i
  | .rejected _ => none

end Sys2Proof
end

