-- ==== Sys2Proof/Machine/State.lean ====
section
/-! DEFINITION. The state of the block as plain data: every register, both memories and every hidden item of
spec/10_state.md, the inputs of the two outside agents (the host and the platform's reset line), and the state
right after reset (spec/70_reset_and_hazards.md R261). -/

namespace Sys2Proof.Machine

/-! ## Small closed types -/

/-- The error codes of R230; codes 12 to 255 are never written (I17). -/
inductive ErrCode where
  | ok
  | illegalCmd
  | noStore
  | range
  | fmtCapacity
  | fmtMixed
  | fmtEmpty
  | fmtT0
  | fmtOrder
  | fmtDup
  | fmtAbsLen
  | noStart
  deriving DecidableEq, Repr

/-- LM, the load mode of the current load (R50). -/
inductive LoadMode where
  | none
  | push
  | raw
  deriving DecidableEq, Repr

/-- UART_CFG.PARITY; the reserved encoding 3 is never stored (R53). -/
inductive Parity where
  | none
  | odd
  | even
  deriving DecidableEq, Repr

/-- UART_CFG.STOP; the reserved encoding 3 is never stored (R53). -/
inductive StopBits where
  | one
  | oneAndHalf
  | two
  deriving DecidableEq, Repr

/-- The roles of R101 (codes 0 to 10). -/
inductive Role where
  | rxd
  | txd
  | cts
  | rts
  | dtr
  | dsr
  | dcd
  | ri
  | mosi
  | miso
  | cs
  deriving DecidableEq, Repr

/-- The labels of R102 (codes 1 to 7). -/
inductive Label where
  | csLow
  | csHigh
  | startErr
  | parityErr
  | frameErr
  | high
  | low
  deriving DecidableEq, Repr

/-- An event as the decoders emit it (R100): a data symbol carries a word, a line event a label. -/
inductive Event where
  | data (time : Word) (role : Role) (value : BitVec 16)
  | line (time : Word) (role : Role) (label : Label)
  deriving DecidableEq, Repr

/-! ## Configuration registers, field by field -/

/-- SPI_CH (R44). -/
structure SpiChannels where
  sck : BitVec 5
  miso : BitVec 5
  mosi : BitVec 5
  cs : BitVec 5
  deriving DecidableEq, Repr

/-- SPI_MODE (R45); `lsbFirst` is ORDER. -/
structure SpiMode where
  mode : BitVec 2
  bits : BitVec 5
  lsbFirst : Bool
  deriving DecidableEq, Repr

/-- UART_CFG (R53). -/
structure UartCfg where
  parity : Parity
  dataBits : BitVec 4
  stop : StopBits
  invert : Bool
  deriving DecidableEq, Repr

/-- One line binding of UART_LINES0 or UART_LINES1: USED and CH (R54). -/
structure LineBinding where
  used : Bool
  ch : BitVec 5
  deriving DecidableEq, Repr

/-- UART_LINES0 (RxD, TxD, CTS, RTS) or UART_LINES1 (DTR, DSR, DCD, RI), byte 0 first (R54). -/
structure LineBank where
  byte0 : LineBinding
  byte1 : LineBinding
  byte2 : LineBinding
  byte3 : LineBinding
  deriving DecidableEq, Repr

/-- SNAP, the copy of the operands taken at acceptance, with every channel clamped (R50, R217). -/
structure Snapshot where
  arg0 : Word
  spiCh : SpiChannels
  spiMode : SpiMode
  uartCfg : UartCfg
  lines0 : LineBank
  lines1 : LineBank
  cursorEn : Bool
  cursorA : Word
  cursorB : Word
  trigger : Word
  trigValid : Bool
  deriving DecidableEq, Repr

/-! ## The sequencer -/

/-- The command a CMD write delivers (R91, R92). -/
inductive Command where
  | nop
  | storeClear
  | storeCommit
  | queryIndex
  | queryValue
  | estimateBaud
  | decodeSpi
  | decodeUart
  | illegal (opc : BitVec 8) (rsvd : BitVec 24)
  deriving DecidableEq, Repr

/-- The CMD row of the opcode table that a command is. -/
def Command.instr : Command → Instr
  | .nop => .nop
  | .storeClear => .storeClear
  | .storeCommit => .storeCommit
  | .queryIndex => .queryIndex
  | .queryValue => .queryValue
  | .estimateBaud => .estimateBaud
  | .decodeSpi => .decodeSpi
  | .decodeUart => .decodeUart
  | .illegal opc rsvd => .illegalCmd opc rsvd

/-- Scan state of DECODE_SPI (R155): the next transition index, the end of the region, both accumulators and the
bit counter. -/
structure SpiScan where
  next : Nat
  stop : Nat
  accMosi : BitVec 16
  accMiso : BitVec 16
  count : Nat
  deriving DecidableEq, Repr

/-- One iteration step that DECODE_UART still has to take (R218). -/
inductive UartItem where
  /-- the estimator run that opens the pass of a data line (R183) -/
  | estimate (role : Role) (ch : Nat)
  /-- an iteration of the data-line loop, with the bit duration and the scan position (R181) -/
  | frame (role : Role) (ch : Nat) (bd : Nat) (pos : Nat)
  /-- one transition of a control-line pass (R196) -/
  | ctrl (role : Role) (ch : Nat) (index : Nat)
  deriving DecidableEq, Repr

/-- Scan state of DECODE_UART: the region `[t0, t1)` (R176), the iterations left in pass order (R180), and the two
estimates that completion copies (R175, R183). With no iteration left, the merge step is next. -/
structure UartScan where
  t0 : Nat
  t1 : Nat
  work : List UartItem
  baudRx : Word
  baudTx : Word
  deriving DecidableEq, Repr

/-- The sequencer (R215): IDLE, or running a command. A command is `pending` from acceptance until its own rule
starts (R218). -/
inductive Seq where
  | idle
  | pending (c : Command)
  | spi (scan : SpiScan)
  /-- an SPI decode that was cancelled or overflowed: only the completion step is left (R219, R221) -/
  | spiClosing
  | uart (scan : UartScan)
  /-- a merged UART decode: only the completion step is left (R233) -/
  | uartClosing (baudRx baudTx : Word)
  deriving DecidableEq, Repr

/-- The running command, none when IDLE. -/
def Seq.command : Seq → Option Command
  | .idle => none
  | .pending c => some c
  | .spi _ | .spiClosing => some .decodeSpi
  | .uart _ | .uartClosing _ _ => some .decodeUart

/-- The agent whose atomic step is being taken (R16, R79). -/
inductive Agent where
  | host
  | sequencer
  deriving DecidableEq, Repr

/-! ## The outside agents -/

/-- What the host does on the bus (R70), and the WAITDONE loop of a host script (R105). -/
inductive HostOp where
  | write (b : BusWrite)
  | read (size : AccessSize) (addr : Word)
  | waitDone
  deriving DecidableEq, Repr

/-- A host operation and the number of sequencer turns that pass before it: with it, plain data says which agent
moves next, and every interleaving of R79 has such data. DESIGN CHOICE, assumption 11. -/
structure HostSlot where
  delay : Nat
  op : HostOp
  deriving DecidableEq, Repr

/-- What the platform does with the reset input (R260). -/
inductive ResetEvent where
  | assert
  | release
  deriving DecidableEq, Repr

/-- A reset event and the number of steps of the other agents that pass before it. DESIGN CHOICE, assumption 11. -/
structure ResetSlot where
  delay : Nat
  event : ResetEvent
  deriving DecidableEq, Repr

/-! ## The state -/

/-- The transition memory (R46) and the event memory (R47) as the bytes of their windows (R71, R73): addresses
strictly rising, no entry equal to the value an unlisted address reads as. -/
abbrev Memory := List Host.Cell

/-- The machine state. Registers the spec derives from other state (BUSY, ERR, IRQ) are computed, not stored. The fields
marked MODEL are the model's own: DESIGN CHOICE, assumption 12. -/
structure State where
  /-- NMAX: the parameter N_MAX (R22); no operation writes it -/
  nMax : Word
  /-- EMAX: the parameter E_MAX (R23); no operation writes it -/
  eMax : Word
  /-- STATUS.DONE (R25) -/
  done : Bool
  /-- STATUS.STORE_VALID (R25) -/
  storeValid : Bool
  /-- STATUS.CANCELLED (R25) -/
  cancelled : Bool
  /-- STATUS.EVT_OVF (R25) -/
  evtOvf : Bool
  /-- STATUS.NO_BAUD_RX (R25) -/
  noBaudRx : Bool
  /-- STATUS.NO_BAUD_TX (R25) -/
  noBaudTx : Bool
  /-- STATUS.CMD_OVR (R25) -/
  cmdOvr : Bool
  /-- STATUS.WR_IGN (R25) -/
  wrIgn : Bool
  /-- STATUS.BUS_ERR (R25) -/
  busErr : Bool
  /-- STATUS.LOAD_OVF (R25) -/
  loadOvf : Bool
  /-- STATUS.LOAD_MIXED (R25) -/
  loadMixed : Bool
  /-- CTRL.IRQ_EN (R26) -/
  irqEn : Bool
  /-- CANCEL_REQ, read as CTRL.CANCEL (R26, R50) -/
  cancelReq : Bool
  /-- ERRCODE (R27) -/
  errCode : ErrCode
  /-- ARG0 (R28) -/
  arg0 : Word
  /-- RESULT0 (R29) -/
  result0 : Word
  /-- RESULT1 (R29) -/
  result1 : Word
  /-- RESULT2 (R29) -/
  result2 : Word
  /-- PROGRESS bits 6:0 (R30) -/
  progress : BitVec 7
  /-- EVT_COUNT (R31) -/
  evtCount : Word
  /-- SYM_COUNT (R32) -/
  symCount : Word
  /-- ERR_COUNT (R33) -/
  errCount : Word
  /-- ST_NTRANS, called N (R34) -/
  nTrans : Word
  /-- ST_ABSLEN, called ABS_LEN (R35) -/
  absLen : Word
  /-- ST_TRIGGER (R36) -/
  trigger : Word
  /-- ST_RATE (R37) -/
  rate : Word
  /-- ST_CFG.CHANNELS (R38) -/
  channels : BitVec 6
  /-- ST_CFG.TRIG_VALID (R38) -/
  trigValid : Bool
  /-- ST_CFG.RATE_VALID (R38) -/
  rateValid : Bool
  /-- ST_ENMASK (R39) -/
  enMask : Word
  /-- CURSOR_CTL.CURSOR_EN (R40) -/
  cursorEn : Bool
  /-- CURSOR_A (R41) -/
  cursorA : Word
  /-- CURSOR_B (R41) -/
  cursorB : Word
  /-- PUSH_VALUE (R42) -/
  pushValue : Word
  /-- RAW_COUNT (R43) -/
  rawCount : Word
  /-- SPI_CH (R44) -/
  spiCh : SpiChannels
  /-- SPI_MODE (R45) -/
  spiMode : SpiMode
  /-- UART_CFG (R53) -/
  uartCfg : UartCfg
  /-- UART_LINES0 (R54) -/
  lines0 : LineBank
  /-- UART_LINES1 (R54) -/
  lines1 : LineBank
  /-- BAUD_RX (R48) -/
  baudRx : Word
  /-- BAUD_TX (R48) -/
  baudTx : Word
  /-- the transition memory and the event memory (R46, R47) -/
  mem : Memory
  /-- LM (R50) -/
  loadMode : LoadMode
  /-- SNAP (R50) -/
  snap : Snapshot
  /-- the sequencer with the scan state of the running command (R50, R215) -/
  seq : Seq
  /-- the reset input is asserted (R260) -/
  inReset : Bool
  /-- MODEL: the agent whose step is being taken -/
  turn : Agent
  /-- MODEL: the word the host's last read returned -/
  readData : Word
  /-- MODEL: how many draws (R52, R222) have been taken; the index of the next free value -/
  draws : Nat
  /-- MODEL: the host's operations still to come, in the order the host issues them (R79) -/
  host : List HostSlot
  /-- MODEL: the platform's reset events still to come -/
  platform : List ResetSlot
  deriving DecidableEq, Repr

/-- No operation of this block faults: it has no trap (R237), and a bad access is dropped with BUS_ERR (R72). The
type has no constructor, so nobody raises one; that is safe, a stop is never claimed. -/
inductive Fault where
  deriving DecidableEq, Repr

/-- Why a step has no meaning. -/
inductive Refusal where
  /-- an operation that has no meaning yet, by its mnemonic: raised only by an arm of `exec` (none is left). Safe:
  the model stops where the hardware goes on. -/
  | notModelled (mnemonic : String)
  deriving DecidableEq, Repr

/-! ## Reset (R261) -/

/-- SPI_CH at reset: every channel 0. -/
def SpiChannels.reset : SpiChannels := { sck := 0#5, miso := 0#5, mosi := 0#5, cs := 0#5 }

/-- SPI_MODE at reset: mode 0, 8 bits, MSB-first. -/
def SpiMode.reset : SpiMode := { mode := 0#2, bits := 8#5, lsbFirst := false }

/-- UART_CFG at reset: 8-N-1, not inverted. -/
def UartCfg.reset : UartCfg := { parity := .none, dataBits := 8#4, stop := .one, invert := false }

/-- An unused role. -/
def LineBinding.unused : LineBinding := { used := false, ch := 0#5 }

/-- UART_LINES0 and UART_LINES1 at reset: every role unused. -/
def LineBank.reset : LineBank :=
  { byte0 := .unused, byte1 := .unused, byte2 := .unused, byte3 := .unused }

/-- SNAP at reset: unspecified and unobservable, since every acceptance overwrites it (R261, I10). DESIGN CHOICE,
assumption 5. -/
def Snapshot.reset : Snapshot :=
  { arg0 := 0#32, spiCh := .reset, spiMode := .reset, uartCfg := .reset, lines0 := .reset, lines1 := .reset,
    cursorEn := false, cursorA := 0#32, cursorB := 0#32, trigger := 0#32, trigValid := false }

/-- The block right after reset, with the capacities of the implementation (R261). Memory lists nothing (its content
is unspecified and unobservable, assumption 5), and no host or platform input waits. -/
def State.resetWith (nMax eMax : Word) : State where
  nMax := nMax
  eMax := eMax
  done := false
  storeValid := false
  cancelled := false
  evtOvf := false
  noBaudRx := false
  noBaudTx := false
  cmdOvr := false
  wrIgn := false
  busErr := false
  loadOvf := false
  loadMixed := false
  irqEn := false
  cancelReq := false
  errCode := .ok
  arg0 := 0#32
  result0 := 0#32
  result1 := 0#32
  result2 := 0#32
  progress := 0#7
  evtCount := 0#32
  symCount := 0#32
  errCount := 0#32
  nTrans := 0#32
  absLen := 0#32
  trigger := 0#32
  rate := 0#32
  channels := 32#6
  trigValid := false
  rateValid := false
  enMask := 0#32
  cursorEn := false
  cursorA := 0#32
  cursorB := 0#32
  pushValue := 0#32
  rawCount := 0#32
  spiCh := .reset
  spiMode := .reset
  uartCfg := .reset
  lines0 := .reset
  lines1 := .reset
  baudRx := 0#32
  baudTx := 0#32
  mem := []
  loadMode := .none
  snap := .reset
  seq := .idle
  inReset := false
  turn := .host
  readData := 0#32
  draws := 0
  host := []
  platform := []

/-- The machine right after reset (R261). The capacities are open parameters: assumption 1. -/
def State.reset : State := State.resetWith Config.nMax Config.eMax

end Sys2Proof.Machine
end

