-- ==== Sys2Proof/Machine/Operands.lean ====
section
/-! DEFINITION. The fields of the registers and of the event record: reading a field from a written word with its
clamp or keep rule, and laying the stored fields out as a word (spec/10_state.md R38 to R54, spec/30_encoding.md
R100 to R102). -/

namespace Sys2Proof.Machine

/-- A one-bit field as a bit vector, 1 when set. -/
def flagBit (b : Bool) : BitVec 1 := BitVec.ofBool b

/-- The nearest value in `[lo, hi]`: the write-any-read-legal clamp (I16). -/
def clampNat (lo hi v : Nat) : Nat := min hi (max lo v)

/-! ## ST_CFG (R38) -/

/-- CHANNELS as a write stores it: bits 5:0, 0 stored as 1 and above 32 as 32. -/
def channelsOf (w : Word) : BitVec 6 := BitVec.ofNat 6 (clampNat 1 32 (w.extractLsb' 0 6).toNat)

/-- ST_CFG as it reads: RATE_VALID bit 9, TRIG_VALID bit 8, CHANNELS bits 5:0. -/
def stCfgWord (channels : BitVec 6) (trigValid rateValid : Bool) : Word :=
  0#22 ++ flagBit rateValid ++ flagBit trigValid ++ 0#2 ++ channels

/-! ## SPI_CH and SPI_MODE (R44, R45) -/

/-- The four channel indices of a word written to SPI_CH. -/
def SpiChannels.ofWord (w : Word) : SpiChannels where
  sck := w.extractLsb' 0 5
  miso := w.extractLsb' 8 5
  mosi := w.extractLsb' 16 5
  cs := w.extractLsb' 24 5

/-- SPI_CH as it reads. -/
def SpiChannels.toWord (c : SpiChannels) : Word :=
  0#3 ++ c.cs ++ 0#3 ++ c.mosi ++ 0#3 ++ c.miso ++ 0#3 ++ c.sck

/-- The fields of a word written to SPI_MODE: BITS below 4 stored as 4, above 16 as 16. -/
def SpiMode.ofWord (w : Word) : SpiMode where
  mode := w.extractLsb' 0 2
  bits := BitVec.ofNat 5 (clampNat 4 16 (w.extractLsb' 8 5).toNat)
  lsbFirst := w.getLsbD 16

/-- SPI_MODE as it reads. -/
def SpiMode.toWord (m : SpiMode) : Word :=
  0#15 ++ flagBit m.lsbFirst ++ 0#3 ++ m.bits ++ 0#6 ++ m.mode

/-! ## UART_CFG (R53) -/

/-- PARITY as a write stores it; the reserved encoding 3 keeps the old value. -/
def Parity.write (old : Parity) (field : BitVec 2) : Parity :=
  match field.toNat with
  | 0 => .none
  | 1 => .odd
  | 2 => .even
  | _ => old

/-- The encoding of PARITY. -/
def Parity.code : Parity → BitVec 2
  | .none => 0#2
  | .odd => 1#2
  | .even => 2#2

/-- STOP as a write stores it; the reserved encoding 3 keeps the old value. -/
def StopBits.write (old : StopBits) (field : BitVec 2) : StopBits :=
  match field.toNat with
  | 0 => .one
  | 1 => .oneAndHalf
  | 2 => .two
  | _ => old

/-- The encoding of STOP. -/
def StopBits.code : StopBits → BitVec 2
  | .one => 0#2
  | .oneAndHalf => 1#2
  | .two => 2#2

/-- UART_CFG after a write: each reserved value is checked field by field, DATABITS is clamped to 5 .. 9. -/
def UartCfg.write (old : UartCfg) (w : Word) : UartCfg where
  parity := old.parity.write (w.extractLsb' 0 2)
  dataBits := BitVec.ofNat 4 (clampNat 5 9 (w.extractLsb' 8 4).toNat)
  stop := old.stop.write (w.extractLsb' 16 2)
  invert := w.getLsbD 24

/-- UART_CFG as it reads. -/
def UartCfg.toWord (c : UartCfg) : Word :=
  0#7 ++ flagBit c.invert ++ 0#6 ++ c.stop.code ++ 0#4 ++ c.dataBits ++ 0#6 ++ c.parity.code

/-! ## UART_LINES0 and UART_LINES1 (R54) -/

/-- The binding in byte `k` of a written word: USED in bit 8k+7, CH in bits 8k+4 : 8k. -/
def LineBinding.ofWord (w : Word) (k : Nat) : LineBinding where
  used := w.getLsbD (8 * k + 7)
  ch := w.extractLsb' (8 * k) 5

/-- A binding as its byte reads. -/
def LineBinding.toByte (l : LineBinding) : Byte := flagBit l.used ++ 0#2 ++ l.ch

/-- The four bindings of a written word. -/
def LineBank.ofWord (w : Word) : LineBank where
  byte0 := .ofWord w 0
  byte1 := .ofWord w 1
  byte2 := .ofWord w 2
  byte3 := .ofWord w 3

/-- A bank of bindings as its register reads. -/
def LineBank.toWord (b : LineBank) : Word :=
  b.byte3.toByte ++ b.byte2.toByte ++ b.byte1.toByte ++ b.byte0.toByte

/-! ## Operand clamps (R157, R158, R177, R179) -/

/-- A channel index at or above CHANNELS is replaced by CHANNELS - 1 (R158, R179). -/
def clampChannel (channels : BitVec 6) (c : BitVec 5) : BitVec 5 :=
  BitVec.ofNat 5 (min c.toNat (channels.toNat - 1))

/-- SPI_CH with every channel clamped (R158). -/
def SpiChannels.clamp (channels : BitVec 6) (c : SpiChannels) : SpiChannels where
  sck := clampChannel channels c.sck
  miso := clampChannel channels c.miso
  mosi := clampChannel channels c.mosi
  cs := clampChannel channels c.cs

/-- A used role has its channel clamped; an unused role is left as it is (R179). -/
def LineBinding.clamp (channels : BitVec 6) (l : LineBinding) : LineBinding :=
  if l.used then { used := true, ch := clampChannel channels l.ch } else l

/-- A bank with every used channel clamped (R179). -/
def LineBank.clamp (channels : BitVec 6) (b : LineBank) : LineBank where
  byte0 := b.byte0.clamp channels
  byte1 := b.byte1.clamp channels
  byte2 := b.byte2.clamp channels
  byte3 := b.byte3.clamp channels

/-- `min(v, ABS_LEN - 1)`: a cursor inside `[0, ABS_LEN - 1]` (R41, R124). -/
def clampCursor (absLen v : Word) : Word := BitVec.ofNat 32 (min v.toNat (absLen.toNat - 1))

/-! ## The event record (R100 to R102) -/

/-- ROLE code of R101. -/
def Role.code : Role → BitVec 8
  | .rxd => 0#8
  | .txd => 1#8
  | .cts => 2#8
  | .rts => 3#8
  | .dtr => 4#8
  | .dsr => 5#8
  | .dcd => 6#8
  | .ri => 7#8
  | .mosi => 8#8
  | .miso => 9#8
  | .cs => 10#8

/-- LABEL code of R102. -/
def Label.code : Label → BitVec 7
  | .csLow => 1#7
  | .csHigh => 2#7
  | .startErr => 3#7
  | .parityErr => 4#7
  | .frameErr => 5#7
  | .high => 6#7
  | .low => 7#7

/-- The TIME word of a record. -/
def Event.time : Event → Word
  | .data t _ _ => t
  | .line t _ _ => t

/-- The role of an event. -/
def Event.role : Event → Role
  | .data _ r _ => r
  | .line _ r _ => r

/-- The INFO word of a record: KIND, LABEL, ROLE, VALUE. A data symbol has LABEL 0, a line event VALUE 0. -/
def Event.info : Event → Word
  | .data _ r x => 0#1 ++ 0#7 ++ r.code ++ x
  | .line _ r l => 1#1 ++ l.code ++ r.code ++ 0#16

/-- KIND of an INFO word: false is a data symbol (R100). -/
def infoIsLine (info : Word) : Bool := info.getLsbD 31

/-- LABEL of an INFO word (R100). -/
def infoLabel (info : Word) : BitVec 7 := info.extractLsb' 24 7

/-- A record that ERR_COUNT counts: LABEL 3, 4 or 5 (R207). -/
def infoIsError (info : Word) : Bool :=
  let l := (infoLabel info).toNat
  decide (3 ≤ l) && decide (l ≤ 5)

/-! ## Error codes (R230) -/

/-- The code ERRCODE holds in bits 7:0. -/
def ErrCode.code : ErrCode → BitVec 8
  | .ok => 0#8
  | .illegalCmd => 1#8
  | .noStore => 2#8
  | .range => 3#8
  | .fmtCapacity => 4#8
  | .fmtMixed => 5#8
  | .fmtEmpty => 6#8
  | .fmtT0 => 7#8
  | .fmtOrder => 8#8
  | .fmtDup => 9#8
  | .fmtAbsLen => 10#8
  | .noStart => 11#8

/-- ERRCODE as it reads: bits 31:8 are 0 (R27). -/
def ErrCode.toWord (e : ErrCode) : Word := 0#24 ++ e.code

end Sys2Proof.Machine
end

