-- ==== Sys2Proof/Machine/Flags.lean ====
section
/-! DEFINITION. The flags: STATUS and CTRL as they read, the flags that follow from other state (BUSY, ERR, IRQ), and
the W1C clear (spec/10_state.md R25, R26, R51, spec/60_exceptions.md R240). -/

namespace Sys2Proof.Machine

/-- STATUS.BUSY: a command is executing (R25, R215). -/
def State.busy (s : State) : Bool := s.seq.command.isSome

/-- STATUS.ERR is always `ERRCODE != 0` (R25, R230). -/
def State.err (s : State) : Bool := s.errCode != .ok

/-- The running command is DECODE_SPI or DECODE_UART (R26). -/
def Seq.isDecode (q : Seq) : Bool :=
  q.command == some .decodeSpi || q.command == some .decodeUart

/-- A decode has started scanning: its rule has begun and it is past every error check (R222, R234). -/
def Seq.scanning : Seq → Bool
  | .idle | .pending _ => false
  | .spi _ | .spiClosing | .uart _ | .uartClosing _ _ => true

/-- IRQ, the interrupt output level: `STATUS.DONE AND CTRL.IRQ_EN` (R240). -/
def State.irq (s : State) : Bool := s.done && s.irqEn

/-- STATUS as it reads, bit 12 down to bit 0 (R25). -/
def State.statusWord (s : State) : Word :=
  0#19 ++ flagBit s.loadMixed ++ flagBit s.loadOvf ++ flagBit s.busErr ++ flagBit s.wrIgn ++ flagBit s.cmdOvr ++
    flagBit s.noBaudTx ++ flagBit s.noBaudRx ++ flagBit s.evtOvf ++ flagBit s.cancelled ++ flagBit s.storeValid ++
    flagBit s.err ++ flagBit s.done ++ flagBit s.busy

/-- CTRL as it reads: CANCEL reads CANCEL_REQ (R26). -/
def State.ctrlWord (s : State) : Word := 0#30 ++ flagBit s.cancelReq ++ flagBit s.irqEn

/-- A W1C bit after a write whose bit is `written` (R25, R82). -/
def w1c (old written : Bool) : Bool := old && !written

end Sys2Proof.Machine
end

