-- ==== Sys2Proof/Machine/Ops.lean ====
section
/-! DEFINITION. The shared operations: the two memories (spec/10_state.md R46, R47, spec/20_memory.md R71, R73), the
write locks (R49), the store's query functions (spec/40_store.md R126, R127), command acceptance and completion
(spec/44_sequencer.md R216, R217, spec/60_exceptions.md R233), which stand where other hardware enters and returns from an
exception (R237, R238), emission (R172, R205, R221), progress (R222) and the reset input (R260, R263). -/

namespace Sys2Proof.Machine

/-! ## Memory -/

/-- What a byte of memory that nothing has written reads as. The spec leaves the content unspecified and
unobservable (R46, R47, R261). DESIGN CHOICE, assumption 5. -/
def Memory.unlisted : Byte := 0#8

/-- The byte at an address. -/
def Memory.readByte : Memory → Nat → Byte
  | [], _ => Memory.unlisted
  | (k, b) :: rest, a => if a = k then b else Memory.readByte rest a

/-- Put an entry at the head, unless it says what an unlisted address says. -/
def Memory.entry (a : Nat) (b : Byte) (rest : Memory) : Memory :=
  if b = Memory.unlisted then rest else (a, b) :: rest

/-- Write one byte, keeping the canonical form. -/
def Memory.writeByte : Memory → Nat → Byte → Memory
  | [], a, b => Memory.entry a b []
  | (k, c) :: rest, a, b =>
    if a < k then Memory.entry a b ((k, c) :: rest)
    else if a = k then Memory.entry a b rest
    else (k, c) :: Memory.writeByte rest a b

/-- The word at an address: the byte at `a + k` is bits `8k+7 : 8k` (R71). -/
def Memory.readWord (m : Memory) (a : Nat) : Word :=
  m.readByte (a + 3) ++ m.readByte (a + 2) ++ m.readByte (a + 1) ++ m.readByte a

/-- Store a word at an address, little-endian (R71). -/
def Memory.writeWord (m : Memory) (a : Nat) (w : Word) : Memory :=
  (((m.writeByte a (w.extractLsb' 0 8)).writeByte (a + 1) (w.extractLsb' 8 8)).writeByte (a + 2)
    (w.extractLsb' 16 8)).writeByte (a + 3) (w.extractLsb' 24 8)

/-- Addresses strictly rising. -/
def Memory.sorted : Memory → Bool
  | [] => true
  | [_] => true
  | (a, _) :: (k, c) :: rest => decide (a < k) && Memory.sorted ((k, c) :: rest)

/-- The canonical form: addresses strictly rising, and no entry equal to what an unlisted address reads as. -/
def Memory.wf (m : Memory) : Bool := m.sorted && m.all (fun c => c.2 != Memory.unlisted)

/-! ## The transition memory (R46, R73) -/

/-- Address of `V[i]`; `T[i]` stands 4 above (R73). -/
def transAddr (i : Nat) : Nat := 0x01000000 + 8 * i

/-- `V[i]`, the value word of entry i. -/
def State.v (s : State) (i : Nat) : Word := s.mem.readWord (transAddr i)

/-- `T[i]`, the timestamp of entry i, as a number (R12). -/
def State.t (s : State) (i : Nat) : Nat := (s.mem.readWord (transAddr i + 4)).toNat

/-- `V[N] <- value; T[N] <- time; N <- N + 1` (R117, R119). -/
def State.appendTransition (value time : Word) (s : State) : State :=
  { s with
    mem := (s.mem.writeWord (transAddr s.nTrans.toNat) value).writeWord (transAddr s.nTrans.toNat + 4) time
    nTrans := s.nTrans + 1#32 }

/-! ## The event memory (R47, R73) -/

/-- Address of the TIME word of record k; INFO stands 4 above (R73). -/
def eventAddr (k : Nat) : Nat := 0x02000000 + 8 * k

/-- A record of the event memory: its TIME word and its INFO word (R100). -/
abbrev Record := Word × Word

/-- Record k. -/
def Memory.record (m : Memory) (k : Nat) : Record :=
  (m.readWord (eventAddr k), m.readWord (eventAddr k + 4))

/-- Write record k. -/
def Memory.writeRecord (m : Memory) (k : Nat) (r : Record) : Memory :=
  (m.writeWord (eventAddr k) r.1).writeWord (eventAddr k + 4) r.2

/-- Write a list of records from record k on. -/
def Memory.writeRecords : Memory → Nat → List Record → Memory
  | m, _, [] => m
  | m, k, r :: rest => (m.writeRecord k r).writeRecords (k + 1) rest

/-- Records 0 to EVT_COUNT - 1, the valid ones (R47). -/
def State.records (s : State) : List Record := (List.range s.evtCount.toNat).map s.mem.record

/-- The record an event is written as (R100). -/
def Event.record (e : Event) : Record := (e.time, e.info)

/-- `Emit` (R172, R205, R221): write record EVT_COUNT and count it; with EVT_COUNT = E_MAX the record is not written
and EVT_OVF is set, and nothing more is emitted by the command. -/
def State.emit (s : State) (e : Event) : State :=
  if s.evtOvf then s
  else if s.evtCount = s.eMax then { s with evtOvf := true }
  else { s with mem := s.mem.writeRecord s.evtCount.toNat e.record, evtCount := s.evtCount + 1#32 }

/-- Emit events in order. -/
def State.emitAll (s : State) (es : List Event) : State := es.foldl State.emit s

/-! ## Locks (R49) -/

/-- A write to a busy-locked register: dropped with WR_IGN while BUSY = 1. -/
def busyLocked (s : State) (s' : State) : State :=
  if s.busy then { s with wrIgn := true } else s'

/-- A write to a store-locked register: dropped with WR_IGN while BUSY = 1 or STORE_VALID = 1. -/
def storeLocked (s : State) (s' : State) : State :=
  if s.busy || s.storeValid then { s with wrIgn := true } else s'

/-! ## Queries (R126, R127, R14) -/

/-- The largest `i < n` with `time i <= t`; 0 when there is none, which a committed store rules out since
`T[0] = 0` (R126; assumption 6). -/
def lastAtOrBefore (time : Nat → Nat) (t : Nat) : Nat → Nat
  | 0 => 0
  | n + 1 => if time n ≤ t then n else lastAtOrBefore time t n

/-- `sample_index_at(t)` (R126). -/
def State.sampleIndexAt (s : State) (t : Nat) : Nat := lastAtOrBefore s.t t s.nTrans.toNat

/-- `value_at(t)` (R127). -/
def State.valueAt (s : State) (t : Nat) : Word := s.v (s.sampleIndexAt t)

/-- ABS_LEN as a number. -/
def State.abs (s : State) : Nat := s.absLen.toNat

/-- NV, the number of transitions below ABS_LEN (R14). -/
def State.nv (s : State) : Nat := s.sampleIndexAt (s.abs - 1) + 1

/-! ## Channel lines (R13, R159) -/

/-- `bit(V[i], c)`, the level of channel c at transition i (R13). -/
def State.lineAt (s : State) (c i : Nat) : Bool := (s.v i).getLsbD c

/-- An edge on channel c at transition i: i >= 1 and the level differs from the one before (R13). -/
def State.edge (s : State) (c i : Nat) : Bool :=
  decide (1 ≤ i) && (s.lineAt c (i - 1) != s.lineAt c i)

/-- A rising edge (R13, R159). -/
def State.rising (s : State) (c i : Nat) : Bool := s.edge c i && s.lineAt c i

/-- A falling edge (R13, R159). -/
def State.falling (s : State) (c i : Nat) : Bool := s.edge c i && !s.lineAt c i

/-- `level(t) = bit(value_at(t), c)` (R181). -/
def State.level (s : State) (c t : Nat) : Bool := (s.valueAt t).getLsbD c

/-- The transition indices `1 .. NV - 1`, those that can be edges (R13, R14). -/
def State.innerIndices (s : State) : List Nat := List.range' 1 (s.nv - 1)

/-! ## Progress (R222) -/

/-- The next intermediate PROGRESS value: a free value in 0 .. 100, never below the one before it. -/
def State.publishProgress (s : State) : State :=
  { s with
    progress := BitVec.ofNat 7 (min 100 (max s.progress.toNat (Config.progressDraw s.draws)))
    draws := s.draws + 1 }

/-- Before every step of an agent, the hardware may publish a new PROGRESS value while a decode scans ("at points of
its own choosing", R222). Before the scan begins the value is the 0 of acceptance. DEDUCED, assumption 3. -/
def State.hardwarePublishes (s : State) : State := if s.seq.scanning then s.publishProgress else s

/-! ## Acceptance (R216, R217) -/

/-- `snapshot()` (R217): the operands, with every SPI channel and every used UART channel clamped. -/
def State.snapshot (s : State) : Snapshot where
  arg0 := s.arg0
  spiCh := s.spiCh.clamp s.channels
  spiMode := s.spiMode
  uartCfg := s.uartCfg
  lines0 := s.lines0.clamp s.channels
  lines1 := s.lines1.clamp s.channels
  cursorEn := s.cursorEn
  cursorA := s.cursorA
  cursorB := s.cursorB
  trigger := s.trigger
  trigValid := s.trigValid

/-- What the acceptance of every command writes (R216). -/
def State.acceptAny (c : Command) (s : State) : State :=
  { s with
    seq := .pending c
    done := false
    errCode := .ok
    cancelled := false
    evtOvf := false
    noBaudRx := false
    noBaudTx := false
    cancelReq := false
    snap := s.snapshot }

/-- What the acceptance of a decode clears (R216). -/
def State.clearDecode (s : State) : State :=
  { s with evtCount := 0#32, symCount := 0#32, errCount := 0#32, progress := 0#7 }

/-- What the acceptance of DECODE_UART clears (R216, R48). -/
def State.clearBaud (s : State) : State := { s with baudRx := 0#32, baudTx := 0#32 }

/-- Acceptance of a command by an idle sequencer (R216). -/
def State.accept (c : Command) (s : State) : State :=
  match c with
  | .decodeSpi => (s.acceptAny c).clearDecode
  | .decodeUart => (s.acceptAny c).clearDecode.clearBaud
  | _ => s.acceptAny c

/-- A CMD write: accepted when the sequencer is IDLE, else dropped with CMD_OVR (R216). -/
def State.writeCommand (c : Command) (s : State) : State :=
  if s.busy then { s with cmdOvr := true } else s.accept c

/-! ## Completion (R233) -/

/-- What `complete(code)` writes for every command. -/
def State.complete (code : ErrCode) (s : State) : State :=
  { s with errCode := code, cancelReq := false, seq := .idle, done := true }

/-- The final counts of a decode and its PROGRESS (R173, R207, R222, R233). -/
def State.finalCounts (s : State) : State :=
  { s with
    symCount := BitVec.ofNat 32 (s.records.countP (fun r => !infoIsLine r.2))
    errCount := BitVec.ofNat 32 (s.records.countP (fun r => infoIsError r.2))
    progress := if s.cancelled || s.evtOvf then s.progress else 100#7 }

/-- Completion of a decode with ERRCODE = OK. -/
def State.completeDecode (s : State) : State := s.finalCounts.complete .ok

/-- Run the body of a command that has no iteration step, in its completion step (R218). An error writes nothing but
the completion fields (R11, R234). -/
def State.completeWith (body : State → Except ErrCode State) (s : State) : State :=
  match body s with
  | .ok s' => s'.complete .ok
  | .error e => s.complete e

/-- One atomic step of a CMD operation. In the host's turn it is the write of the command word (R216). In the
sequencer's turn it is the next step of the running command, `run` (R218). -/
def commandStep (c : Command) (run : State → State) (s : State) : Host.Outcome State Fault Refusal :=
  match s.turn with
  | .host => .next (s.writeCommand c)
  | .sequencer => .next (run s)

/-! ## The reset input (R260, R261, R263) -/

/-- Every register and hidden item at its reset value. The capacities are constants (R22, R23), the content of the
memories stays and is unobservable (R261), and the agents outside the block keep their own plans. -/
def State.resetBlock (s : State) : State :=
  { State.resetWith s.nMax s.eMax with
    mem := s.mem
    inReset := s.inReset
    turn := s.turn
    readData := s.readData
    draws := s.draws
    host := s.host
    platform := s.platform }

/-- The platform drives the reset input: asserting it abandons a running command without completion (R263), and at the
release every item holds its reset value (R260). An assertion resets an idle block too, and a release while reset is not
asserted resets the block: DESIGN CHOICE, assumption 16. -/
def State.resetEvent (e : ResetEvent) (s : State) : State :=
  match e with
  | .assert => { s.resetBlock with inReset := true }
  | .release => { s.resetBlock with inReset := false }

end Sys2Proof.Machine
end

