-- ==== Sys2Proof/Machine/Bus.lean ====
section
/-! DEFINITION. The bus accesses that are no operation of the opcode table: host reads of the registers and of both
windows, and the writes that are dropped or ignored (spec/20_memory.md R70 to R75, spec/10_state.md section 2,
R52). -/

namespace Sys2Proof.Machine

/-- The word a register holds for a reader; none at a reserved offset. CMD, PUSH_TS and RAW_SAMPLE read 0 (R24, R42,
R43). -/
def State.register (s : State) (offset : Nat) : Option Word :=
  match offset with
  | 0x000 => some Config.idValue
  | 0x004 => some s.nMax
  | 0x008 => some s.eMax
  | 0x010 => some 0#32
  | 0x014 => some s.statusWord
  | 0x018 => some s.ctrlWord
  | 0x01C => some s.errCode.toWord
  | 0x020 => some s.arg0
  | 0x024 => some s.result0
  | 0x028 => some s.result1
  | 0x02C => some s.result2
  | 0x030 => some (BitVec.zeroExtend 32 s.progress)
  | 0x034 => some s.evtCount
  | 0x038 => some s.symCount
  | 0x03C => some s.errCount
  | 0x040 => some s.nTrans
  | 0x044 => some s.absLen
  | 0x048 => some s.trigger
  | 0x04C => some s.rate
  | 0x050 => some (stCfgWord s.channels s.trigValid s.rateValid)
  | 0x054 => some s.enMask
  | 0x058 => some (BitVec.zeroExtend 32 (flagBit s.cursorEn))
  | 0x05C => some s.cursorA
  | 0x060 => some s.cursorB
  | 0x064 => some s.pushValue
  | 0x068 => some 0#32
  | 0x06C => some 0#32
  | 0x070 => some s.rawCount
  | 0x080 => some s.spiCh.toWord
  | 0x084 => some s.spiMode.toWord
  | 0x088 => some s.uartCfg.toWord
  | 0x08C => some s.lines0.toWord
  | 0x090 => some s.lines1.toWord
  | 0x094 => some s.baudRx
  | 0x098 => some s.baudTx
  | _ => none

/-- The counts, whose reads are draws while BUSY = 1 (R52). -/
def isCountOffset (offset : Nat) : Bool := offset == 0x034 || offset == 0x038 || offset == 0x03C

/-- The word of the transition window at an offset: 0 for an entry at or beyond N (R74). -/
def State.transitionWord (s : State) (offset : Nat) : Word :=
  if (offset - 0x01000000) / 8 < s.nTrans.toNat then s.mem.readWord offset else 0#32

/-- The word of the event window at an offset while BUSY = 0: 0 for a record at or beyond EVT_COUNT (R75). -/
def State.eventWord (s : State) (offset : Nat) : Word :=
  if (offset - 0x02000000) / 8 < s.evtCount.toNat then s.mem.readWord offset else 0#32

/-- A read that returns a draw: a fresh free value (R52, R75). -/
def State.readDraw (s : State) : State :=
  { s with readData := Config.busyRead s.draws, draws := s.draws + 1 }

/-- A read that returns a word. -/
def State.readReturns (w : Word) (s : State) : State := { s with readData := w }

/-- An access that R72 refuses: a read returns 0, and BUS_ERR is set. -/
def State.readRefused (s : State) : State := { s with readData := 0#32, busErr := true }

/-- A read of the register block (R72, spec/10_state.md section 2). -/
def State.readRegister (s : State) (offset : Nat) : State :=
  match s.register offset with
  | none => s.readRefused
  | some w =>
    if s.busy && isCountOffset offset then s.readDraw
    else s.readReturns w

/-- A host read (R70, R72 to R75). A read changes no state of the block but BUS_ERR (R76). -/
def State.busRead (size : AccessSize) (addr : Word) (s : State) : State :=
  if size ≠ .word ∨ addr.toNat % 4 ≠ 0 then s.readRefused
  else if addr.toNat < registerBlockEnd then s.readRegister addr.toNat
  else if inTransitionWindow addr.toNat then s.readReturns (s.transitionWord addr.toNat)
  else if inEventWindow addr.toNat then
    if s.busy then s.readDraw else s.readReturns (s.eventWord addr.toNat)
  else s.readRefused

/-- A write that is no operation (R72, spec/10_state.md section 2): a read-only register ignores it with no flag;
every other one is dropped with BUS_ERR. -/
def State.dropWrite (r : WriteReject) (s : State) : State :=
  match r with
  | .readOnlyRegister => s
  | .subWord | .misaligned | .reservedOffset | .readOnlyWindow | .outsideRegions => { s with busErr := true }

/-- One read of STATUS by the WAITDONE loop (R105): when DONE is 0 the loop polls again after the sequencer has had a
turn. DESIGN CHOICE, assumption 8. -/
def State.pollDone (s : State) : State :=
  let u := s.busRead .word (BitVec.ofNat 32 0x014)
  if u.readData.getLsbD 1 then u else { u with host := { delay := 1, op := .waitDone } :: u.host }

end Sys2Proof.Machine
end

