-- ==== Sys2Proof/Machine/Baud.lean ====
section
/-! DEFINITION. The baud-rate histogram estimator (spec/41_baud.md): the function `est(M)` and ESTIMATE_BAUD. -/

namespace Sys2Proof.Machine

/-- What `est(M)` returns: best, min and max (R145). -/
structure Estimate where
  best : Nat
  least : Nat
  most : Nat
  deriving DecidableEq, Repr

/-- Transition i is an edge of the line under mask M (R140). -/
def State.maskEdge (s : State) (mask : Word) (i : Nat) : Bool :=
  (s.v i &&& mask) != (s.v (i - 1) &&& mask)

/-- The pulse durations `d_1 .. d_K` in order: each edge minus the edge before it, the first from time `prev`
(R141). -/
def durationsFrom (time : Nat → Nat) : Nat → List Nat → List Nat
  | _, [] => []
  | prev, i :: rest => (time i - prev) :: durationsFrom time (time i) rest

/-- The durations of the line under mask M over the committed store below ABS_LEN (R140, R141). -/
def State.durations (s : State) (mask : Word) : List Nat :=
  durationsFrom s.t 0 (s.innerIndices.filter (s.maskEdge mask))

/-- The histogram: one entry per exact duration with its count, in order of first occurrence (R142). -/
abbrev Histogram := List (Nat × Nat)

/-- Count one more duration; a new one goes to the end (R145). -/
def Histogram.add : Histogram → Nat → Histogram
  | [], d => [(d, 1)]
  | (k, c) :: rest, d => if k = d then (k, c + 1) :: rest else (k, c) :: Histogram.add rest d

/-- The histogram of a list of durations. -/
def histogramOf (ds : List Nat) : Histogram := ds.foldl Histogram.add []

/-- The entry with the highest count; only a strictly higher count replaces an earlier one (R143, R145). -/
def modeOf (first : Nat × Nat) (rest : Histogram) : Nat × Nat :=
  rest.foldl (fun best e => if best.2 < e.2 then e else best) first

/-- `est` of a list of durations (R143 to R145). -/
def estimateOf (ds : List Nat) : Estimate :=
  match histogramOf ds with
  | [] => { best := 0, least := 0, most := 0 }
  | first :: rest =>
    { best := (modeOf first rest).1
      least := rest.foldl (fun m e => min m e.1) first.1
      most := rest.foldl (fun m e => max m e.1) first.1 }

/-- `est(M)` (R145). -/
def State.estimate (s : State) (mask : Word) : Estimate := estimateOf (s.durations mask)

/-- The rule of ESTIMATE_BAUD (R146); the mask is read from the snapshot. -/
def State.estimateBaud (s : State) : Except ErrCode State :=
  if !s.storeValid then .error .noStore
  else
    let e := s.estimate s.snap.arg0
    .ok { s with
          result0 := BitVec.ofNat 32 e.best
          result1 := BitVec.ofNat 32 e.least
          result2 := BitVec.ofNat 32 e.most }

/-- ESTIMATE_BAUD (R146). -/
def execEstimateBaud (s : State) : Host.Outcome State Fault Refusal :=
  commandStep .estimateBaud (State.completeWith State.estimateBaud) s

end Sys2Proof.Machine
end

