-- ==== Sys2Proof/Machine/Registers.lean ====
section
/-! DEFINITION. The register writes (spec/10_state.md R25 to R54, spec/30_encoding.md R94), each under its lock
(R49). -/

namespace Sys2Proof.Machine

/-- STATUS_W1C (R25): each W1C bit written as 1 is cleared, every other bit is ignored; never locked. -/
def execStatusW1c (w : Word) (s : State) : Host.Outcome State Fault Refusal :=
  .next { s with
          done := w1c s.done (w.getLsbD 1)
          cmdOvr := w1c s.cmdOvr (w.getLsbD 8)
          wrIgn := w1c s.wrIgn (w.getLsbD 9)
          busErr := w1c s.busErr (w.getLsbD 10) }

/-- CTRL_WR (R26): IRQ_EN is stored; CANCEL sets CANCEL_REQ only while a decode runs; never locked. -/
def execCtrlWr (w : Word) (s : State) : Host.Outcome State Fault Refusal :=
  .next { s with
          irqEn := w.getLsbD 0
          cancelReq := s.cancelReq || (w.getLsbD 1 && s.seq.isDecode) }

/-- ARG0_WR (R28), busy-locked. -/
def execArg0Wr (w : Word) (s : State) : Host.Outcome State Fault Refusal :=
  .next (busyLocked s { s with arg0 := w })

/-- ST_ABSLEN_WR (R35), store-locked. -/
def execStAbslenWr (w : Word) (s : State) : Host.Outcome State Fault Refusal :=
  .next (storeLocked s { s with absLen := w })

/-- ST_TRIGGER_WR (R36), store-locked. -/
def execStTriggerWr (w : Word) (s : State) : Host.Outcome State Fault Refusal :=
  .next (storeLocked s { s with trigger := w })

/-- ST_RATE_WR (R37), store-locked. -/
def execStRateWr (w : Word) (s : State) : Host.Outcome State Fault Refusal :=
  .next (storeLocked s { s with rate := w })

/-- ST_CFG_WR (R38), store-locked. -/
def execStCfgWr (w : Word) (s : State) : Host.Outcome State Fault Refusal :=
  .next (storeLocked s
    { s with channels := channelsOf w, trigValid := w.getLsbD 8, rateValid := w.getLsbD 9 })

/-- ST_ENMASK_WR (R39), store-locked. -/
def execStEnmaskWr (w : Word) (s : State) : Host.Outcome State Fault Refusal :=
  .next (storeLocked s { s with enMask := w })

/-- CURSOR_CTL_WR (R40), busy-locked. -/
def execCursorCtlWr (w : Word) (s : State) : Host.Outcome State Fault Refusal :=
  .next (busyLocked s { s with cursorEn := w.getLsbD 0 })

/-- A cursor value as a write stores it: clamped when a store is committed (R41). -/
def State.cursorValue (w : Word) (s : State) : Word :=
  if s.storeValid then clampCursor s.absLen w else w

/-- CURSOR_A_WR (R41), busy-locked. -/
def execCursorAWr (w : Word) (s : State) : Host.Outcome State Fault Refusal :=
  .next (busyLocked s { s with cursorA := s.cursorValue w })

/-- CURSOR_B_WR (R41), busy-locked. -/
def execCursorBWr (w : Word) (s : State) : Host.Outcome State Fault Refusal :=
  .next (busyLocked s { s with cursorB := s.cursorValue w })

/-- PUSH_VALUE_WR (R42), store-locked. -/
def execPushValueWr (w : Word) (s : State) : Host.Outcome State Fault Refusal :=
  .next (storeLocked s { s with pushValue := w })

/-- SPI_CH_WR (R44), busy-locked. -/
def execSpiChWr (w : Word) (s : State) : Host.Outcome State Fault Refusal :=
  .next (busyLocked s { s with spiCh := .ofWord w })

/-- SPI_MODE_WR (R45), busy-locked. -/
def execSpiModeWr (w : Word) (s : State) : Host.Outcome State Fault Refusal :=
  .next (busyLocked s { s with spiMode := .ofWord w })

/-- UART_CFG_WR (R53), busy-locked. -/
def execUartCfgWr (w : Word) (s : State) : Host.Outcome State Fault Refusal :=
  .next (busyLocked s { s with uartCfg := s.uartCfg.write w })

/-- UART_LINES0_WR (R54), busy-locked. -/
def execUartLines0Wr (w : Word) (s : State) : Host.Outcome State Fault Refusal :=
  .next (busyLocked s { s with lines0 := .ofWord w })

/-- UART_LINES1_WR (R54), busy-locked. -/
def execUartLines1Wr (w : Word) (s : State) : Host.Outcome State Fault Refusal :=
  .next (busyLocked s { s with lines1 := .ofWord w })

end Sys2Proof.Machine
end

