-- ==== Sys2Proof/Machine/Sequencer.lean ====
section
/-! DEFINITION. The commands that only the sequencer itself defines: NOP (spec/44_sequencer.md R224) and a reserved
command word (spec/30_encoding.md R92). -/

namespace Sys2Proof.Machine

/-- NOP (R224): its completion step writes the completion fields and nothing else. -/
def execNop (s : State) : Host.Outcome State Fault Refusal :=
  commandStep .nop (State.complete .ok) s

/-- A reserved command word (R92): accepted, then completed with ILLEGAL_CMD, with no effect of its own. The
completion is the step after the acceptance (R218). DEDUCED, assumption 7. -/
def execIllegalCmd (opc : BitVec 8) (rsvd : BitVec 24) (s : State) : Host.Outcome State Fault Refusal :=
  commandStep (.illegal opc rsvd) (State.complete .illegalCmd) s

end Sys2Proof.Machine
end

