-- ==== Sys2Proof/Machine/Spi.lean ====
section
/-! DEFINITION. The SPI clock-edge-triggered bit/byte assembler (spec/42_spi.md): DECODE_SPI. -/

namespace Sys2Proof.Machine

/-! ## The region (R156, R157) -/

/-- Transition indices `[start, stop)`. -/
structure SpiRegion where
  start : Nat
  stop : Nat
  deriving DecidableEq, Repr

/-- `spi_region()` (R156): the cursors, else the first falling edge on CS, else the clamped trigger (R157), else
none. -/
def State.spiRegion (s : State) : Option SpiRegion :=
  if s.snap.cursorEn then
    some { start := s.sampleIndexAt s.snap.cursorA.toNat, stop := s.sampleIndexAt s.snap.cursorB.toNat + 1 }
  else
    match s.innerIndices.find? (s.falling s.snap.spiCh.cs.toNat) with
    | some i => some { start := i, stop := s.nv }
    | none =>
      if s.snap.trigValid then
        some { start := s.sampleIndexAt (min s.snap.trigger.toNat (s.abs - 1)), stop := s.nv }
      else none

/-! ## One iteration (R155) -/

/-- The active sampling edge: rising in modes 0 and 2, falling in modes 1 and 3 (R160). -/
def State.spiActive (s : State) (i : Nat) : Bool :=
  if s.snap.spiMode.mode.toNat % 2 = 0 then s.rising s.snap.spiCh.sck.toNat i
  else s.falling s.snap.spiCh.sck.toNat i

/-- The CS event of transition i, if it has one (R164). -/
def State.spiCsEvents (s : State) (i : Nat) : List Event :=
  if s.edge s.snap.spiCh.cs.toNat i then
    [.line (BitVec.ofNat 32 (s.t i)) .cs (if s.falling s.snap.spiCh.cs.toNat i then .csLow else .csHigh)]
  else []

/-- An accumulator after one sampled bit: shifted in at the bottom MSB-first, set at bit `n` LSB-first (R155, R162). -/
def shiftIn (lsbFirst : Bool) (acc : BitVec 16) (n : Nat) (b : Bool) : BitVec 16 :=
  if lsbFirst then acc ||| (BitVec.zeroExtend 16 (flagBit b) <<< n)
  else (acc <<< 1) ||| BitVec.zeroExtend 16 (flagBit b)

/-- The loop body for transition i (R155): the scan state after it and the events it emits, CS first (R165), then
MOSI and MISO of a completed word (R163). Transition 0 is skipped, since it is never an edge. -/
def State.spiIterate (s : State) (scan : SpiScan) : SpiScan × List Event :=
  let i := scan.next
  let after := { scan with next := i + 1 }
  if i = 0 then (after, [])
  else if s.spiActive i then
    let mosi := shiftIn s.snap.spiMode.lsbFirst scan.accMosi scan.count (s.lineAt s.snap.spiCh.mosi.toNat i)
    let miso := shiftIn s.snap.spiMode.lsbFirst scan.accMiso scan.count (s.lineAt s.snap.spiCh.miso.toNat i)
    if scan.count + 1 = s.snap.spiMode.bits.toNat then
      ({ after with accMosi := 0#16, accMiso := 0#16, count := 0 },
        s.spiCsEvents i ++
          [.data (BitVec.ofNat 32 (s.t i)) .mosi mosi, .data (BitVec.ofNat 32 (s.t i)) .miso miso])
    else ({ after with accMosi := mosi, accMiso := miso, count := scan.count + 1 }, s.spiCsEvents i)
  else (after, s.spiCsEvents i)

/-! ## The steps (R218, R168) -/

/-- Take the events of an iteration; an overflow stops the scan, else it goes on with `scan'` (R221). -/
def State.spiEmit (s : State) (scan' : SpiScan) (es : List Event) : State :=
  let s' := s.emitAll es
  if s'.evtOvf then { s' with seq := .spiClosing } else { s' with seq := .spi scan' }

/-- One sequencer step of a scanning SPI decode: past the end of the region the completion, where a partial word is
dropped (R167); else the poll (R168, R219) and one iteration. A cancelled scan completes in the step after: DEDUCED,
assumption 14. -/
def State.spiStep (s : State) (scan : SpiScan) : State :=
  if scan.stop ≤ scan.next then s.completeDecode
  else if s.cancelReq then { s with cancelled := true, seq := .spiClosing }
  else
    let r := s.spiIterate scan
    s.spiEmit r.1 r.2

/-- The start of the rule: NO_STORE, then NO_START (R235), else the region is fixed once and the scan begins with it
(R217), with the first iteration in this same step: DEDUCED, assumption 14. -/
def State.spiBegin (s : State) : State :=
  if !s.storeValid then s.complete .noStore
  else
    match s.spiRegion with
    | none => s.complete .noStart
    | some r => s.spiStep { next := r.start, stop := r.stop, accMosi := 0#16, accMiso := 0#16, count := 0 }

/-- The next step of a running SPI decode. -/
def State.runSpi (s : State) : State :=
  match s.seq with
  | .pending _ => s.spiBegin
  | .spi scan => s.spiStep scan
  | .spiClosing => s.completeDecode
  | .idle | .uart _ | .uartClosing _ _ => s

/-- DECODE_SPI (R155). -/
def execDecodeSpi (s : State) : Host.Outcome State Fault Refusal :=
  commandStep .decodeSpi State.runSpi s

end Sys2Proof.Machine
end

