-- ==== Sys2Proof/Machine/Store.lean ====
section
/-! DEFINITION. The waveform store (spec/40_store.md): STORE_CLEAR, the two load writes, STORE_COMMIT and the two
queries. -/

namespace Sys2Proof.Machine

/-! ## STORE_CLEAR (R115) -/

/-- What STORE_CLEAR writes (R115). -/
def State.clearStore (s : State) : State :=
  { s with
    storeValid := false
    nTrans := 0#32
    rawCount := 0#32
    loadMode := .none
    loadOvf := false
    loadMixed := false
    evtCount := 0#32
    symCount := 0#32
    errCount := 0#32 }

/-- STORE_CLEAR (R115). -/
def execStoreClear (s : State) : Host.Outcome State Fault Refusal :=
  commandStep .storeClear (fun u => u.clearStore.complete .ok) s

/-! ## Loading (R117, R119) -/

/-- A push of timestamp `t` when no lock holds (R117). -/
def State.push (t : Word) (s : State) : State :=
  if s.loadOvf then s
  else if s.loadMode = .raw then { s with loadMixed := true }
  else if s.nTrans = s.nMax then { s with loadMode := .push, loadOvf := true }
  else { s.appendTransition s.pushValue t with loadMode := .push }

/-- PUSH_TS (R117, R49). -/
def execPushTs (t : Word) (s : State) : Host.Outcome State Fault Refusal :=
  .next (storeLocked s (s.push t))

/-- Sample `v` starts a new transition: it is the first, or it differs from the last value (R119). -/
def State.rawIsNew (v : Word) (s : State) : Bool :=
  s.nTrans == 0#32 || v != s.v (s.nTrans.toNat - 1)

/-- A raw sample `v` when no lock holds (R119). -/
def State.pushRaw (v : Word) (s : State) : State :=
  if s.loadOvf then s
  else if s.loadMode = .push then { s with loadMixed := true }
  else if s.rawCount = 0xFFFFFFFF#32 then { s with loadMode := .raw, loadOvf := true }
  else if s.rawIsNew v then
    if s.nTrans = s.nMax then { s with loadMode := .raw, loadOvf := true }
    else { s.appendTransition v s.rawCount with loadMode := .raw, rawCount := s.rawCount + 1#32 }
  else { s with loadMode := .raw, rawCount := s.rawCount + 1#32 }

/-- RAW_SAMPLE (R119, R49). -/
def execRawSample (v : Word) (s : State) : Host.Outcome State Fault Refusal :=
  .next (storeLocked s (s.pushRaw v))

/-! ## STORE_COMMIT (R121, R122, R124) -/

/-- The length that a commit would take: RAW_COUNT of a raw load, else what the host wrote (R121, R122). -/
def State.commitLength (s : State) : Word := if s.loadMode = .raw then s.rawCount else s.absLen

/-- Indices `1 .. N - 1` of the loaded entries. -/
def State.loadedInner (s : State) : List Nat := List.range' 1 (s.nTrans.toNat - 1)

/-- Commit effects (R124). -/
def State.commit (len : Word) (s : State) : State :=
  { s with
    absLen := len
    storeValid := true
    cursorA := clampCursor len s.cursorA
    cursorB := clampCursor len s.cursorB }

/-- The rule of STORE_COMMIT: the first check that fails decides the code (R121, R235). -/
def State.tryCommit (s : State) : Except ErrCode State :=
  if s.storeValid then .ok s
  else if s.loadOvf then .error .fmtCapacity
  else if s.loadMixed then .error .fmtMixed
  else if s.nTrans = 0#32 then .error .fmtEmpty
  else if s.t 0 ≠ 0 then .error .fmtT0
  else if s.loadedInner.any (fun i => decide (s.t i ≤ s.t (i - 1))) then .error .fmtOrder
  else if s.loadedInner.any (fun i => s.v i == s.v (i - 1)) then .error .fmtDup
  else if s.commitLength = 0#32 ∨ s.commitLength.toNat < s.t (s.nTrans.toNat - 1) then .error .fmtAbsLen
  else .ok (s.commit s.commitLength)

/-- STORE_COMMIT (R121). -/
def execStoreCommit (s : State) : Host.Outcome State Fault Refusal :=
  commandStep .storeCommit (State.completeWith State.tryCommit) s

/-! ## Queries (R128, R130) -/

/-- The checks both queries share: NO_STORE, then RANGE (R235). The operand is read from the snapshot (R93). -/
def State.checkQuery (s : State) : Except ErrCode Nat :=
  if !s.storeValid then .error .noStore
  else if s.abs ≤ s.snap.arg0.toNat then .error .range
  else .ok (s.sampleIndexAt s.snap.arg0.toNat)

/-- The rule of QUERY_INDEX (R128). -/
def State.queryIndex (s : State) : Except ErrCode State :=
  match s.checkQuery with
  | .error e => .error e
  | .ok i => .ok { s with result0 := BitVec.ofNat 32 i }

/-- QUERY_INDEX (R128). -/
def execQueryIndex (s : State) : Host.Outcome State Fault Refusal :=
  commandStep .queryIndex (State.completeWith State.queryIndex) s

/-- The rule of QUERY_VALUE (R130). -/
def State.queryValue (s : State) : Except ErrCode State :=
  match s.checkQuery with
  | .error e => .error e
  | .ok i => .ok { s with result0 := s.v i, result1 := BitVec.ofNat 32 i }

/-- QUERY_VALUE (R130). -/
def execQueryValue (s : State) : Host.Outcome State Fault Refusal :=
  commandStep .queryValue (State.completeWith State.queryValue) s

end Sys2Proof.Machine
end

