-- ==== Sys2Proof/Machine/Uart.lean ====
section
/-! DEFINITION. The UART bit-framing validator with parity check (spec/43_uart.md): DECODE_UART. -/

namespace Sys2Proof.Machine

/-! ## Lines and region (R176 to R180) -/

/-- The bindings in pass order: RxD, TxD, then CTS, RTS, DTR, DSR, DCD, RI (R180, R54). -/
def Snapshot.lines (n : Snapshot) : List (Role × LineBinding) :=
  [(.rxd, n.lines0.byte0), (.txd, n.lines0.byte1), (.cts, n.lines0.byte2), (.rts, n.lines0.byte3),
    (.dtr, n.lines1.byte0), (.dsr, n.lines1.byte1), (.dcd, n.lines1.byte2), (.ri, n.lines1.byte3)]

/-- The configured lines: the used roles and their clamped channels (R178, R179). -/
def Snapshot.usedLines (n : Snapshot) : List (Role × Nat) :=
  (n.lines.filter (fun l => l.2.used)).map (fun l => (l.1, l.2.ch.toNat))

/-- Sample times `[t0, t1)`. -/
structure UartRegion where
  t0 : Nat
  t1 : Nat
  deriving DecidableEq, Repr

/-- Some configured line has an edge at transition i (R178). -/
def State.anyLineEdge (s : State) (i : Nat) : Bool :=
  s.snap.usedLines.any (fun l => s.edge l.2 i)

/-- `uart_region()` (R176): the cursors, else the trigger less the back-off (R177), else the first edge on a
configured line, else the whole capture. -/
def State.uartRegion (s : State) : UartRegion :=
  if s.snap.cursorEn then { t0 := s.snap.cursorA.toNat, t1 := s.snap.cursorB.toNat + 1 }
  else if s.snap.trigValid then
    { t0 := min s.snap.trigger.toNat (s.abs - 1) - Config.uartBackoff, t1 := s.abs }
  else
    match s.innerIndices.find? s.anyLineEdge with
    | some i => { t0 := s.t i, t1 := s.abs }
    | none => { t0 := 0, t1 := s.abs }

/-- The transitions that a control-line pass visits (R196). -/
def State.ctrlIndices (s : State) (r : UartRegion) : List Nat :=
  s.innerIndices.filter (fun i => decide (r.t0 ≤ s.t i) && decide (s.t i < r.t1))

/-- The iteration steps a line's pass starts with (R183, R196, R218). -/
def State.passItems (s : State) (r : UartRegion) (role : Role) (ch : Nat) : List UartItem :=
  match role with
  | .rxd | .txd => [.estimate role ch]
  | _ => (s.ctrlIndices r).map (fun i => .ctrl role ch i)

/-- The scan state at the start of the rule: every pass in order (R175, R180). -/
def State.uartScan (s : State) : UartScan :=
  let r := s.uartRegion
  { t0 := r.t0
    t1 := r.t1
    work := s.snap.usedLines.flatMap (fun l => s.passItems r l.1 l.2)
    baudRx := 0#32
    baudTx := 0#32 }

/-! ## A frame (R181 to R193) -/

/-- P: 1 when parity is enabled (R181). -/
def Parity.bits : Parity → Nat
  | .none => 0
  | .odd | .even => 1

/-- S2: the stop bits in half bits (R181, R184). -/
def StopBits.halves : StopBits → Nat
  | .one => 2
  | .oneAndHalf => 3
  | .two => 4

/-- D + P, the increments between the start sample and the last one before the stop bits (R193). -/
def UartCfg.payloadBits (c : UartCfg) : Nat := c.dataBits.toNat + c.parity.bits

/-- The span a frame needs, in half bits times the bit duration (R184). -/
def UartCfg.spanHalves (c : UartCfg) : Nat := 2 * c.dataBits.toNat + 2 * c.parity.bits + c.stop.halves

/-- `stop_points(s0)` (R190). -/
def UartCfg.stopPoints (c : UartCfg) (bd s0 : Nat) : List Nat :=
  let base := s0 + (c.payloadBits + 1) * bd
  match c.stop with
  | .one => [base]
  | .oneAndHalf => [base, base + bd / 2]
  | .two => [base, base + bd]

/-- `fin`, the last stop sample point (R192, R193). -/
def UartCfg.lastStop (c : UartCfg) (bd s0 : Nat) : Nat :=
  let base := s0 + (c.payloadBits + 1) * bd
  match c.stop with
  | .one => base
  | .oneAndHalf => base + bd / 2
  | .two => base + bd

/-- A level with inversion removed: `level XOR inv` (R182). -/
def State.logical (s : State) (ch t : Nat) : Bool := s.level ch t ^^ s.snap.uartCfg.invert

/-- `qualifying(c, i)`: an edge whose new level is `inv` (R182). -/
def State.qualifying (s : State) (ch i : Nat) : Bool :=
  s.edge ch i && (s.lineAt ch i == s.snap.uartCfg.invert)

/-- The next start edge: the least qualifying transition with `pos <= T < T1` (R185). -/
def State.startEdge (s : State) (ch pos t1 : Nat) : Option Nat :=
  s.innerIndices.find? (fun i => decide (pos ≤ s.t i) && decide (s.t i < t1) && s.qualifying ch i)

/-- The data word of a frame: bit k - 1 is the sample at `s0 + k * bd`, for k = 1 .. D (R187). -/
def State.dataWord (s : State) (ch bd s0 : Nat) : BitVec 16 :=
  (List.range' 1 s.snap.uartCfg.dataBits.toNat).foldl
    (fun x k => x ||| (BitVec.zeroExtend 16 (flagBit (s.logical ch (s0 + k * bd))) <<< (k - 1))) 0#16

/-- `ones(x)` over the low D bits (R189). -/
def onesBelow (d : Nat) (x : BitVec 16) : Nat := (List.range d).countP (fun k => x.getLsbD k)

/-- `parity_bit(x, D, PARITY)` (R189): even makes the count of 1s even, odd makes it odd. PRESUMED, assumption 10. -/
def parityBit (p : Parity) (d : Nat) (x : BitVec 16) : Bool :=
  match p with
  | .odd => onesBelow d x % 2 == 0
  | .none | .even => onesBelow d x % 2 == 1

/-- The PARITY_ERR event of a frame, if parity is enabled and the sample does not match (R188). -/
def State.parityEvents (s : State) (role : Role) (ch bd s0 : Nat) (x : BitVec 16) : List Event :=
  let tp := s0 + (s.snap.uartCfg.dataBits.toNat + 1) * bd
  if s.snap.uartCfg.parity.bits = 1 then
    if s.logical ch tp != parityBit s.snap.uartCfg.parity s.snap.uartCfg.dataBits.toNat x then
      [.line (BitVec.ofNat 32 tp) role .parityErr]
    else []
  else []

/-- The FRAME_ERR events of a frame: one for each stop point that is not high (R190, R191). -/
def State.stopEvents (s : State) (role : Role) (ch bd s0 : Nat) : List Event :=
  ((s.snap.uartCfg.stopPoints bd s0).filter (fun ts => !s.logical ch ts)).map
    (fun ts => .line (BitVec.ofNat 32 ts) role .frameErr)

/-- Every event of a frame whose start bit is good, in emission order (R206). -/
def State.frameEvents (s : State) (role : Role) (ch bd s0 : Nat) : List Event :=
  let x := s.dataWord ch bd s0
  s.parityEvents role ch bd s0 x ++ s.stopEvents role ch bd s0 ++
    [.data (BitVec.ofNat 32 (s.snap.uartCfg.lastStop bd s0)) role x]

/-- One iteration of the data-line loop after its poll (R181): none when the pass ends, else the events of the frame
and the new scan position. -/
def State.frameIterate (s : State) (role : Role) (ch bd pos t1 : Nat) : Option (List Event × Nat) :=
  if 2 * t1 < 2 * pos + s.snap.uartCfg.spanHalves * bd then none
  else
    match s.startEdge ch pos t1 with
    | none => none
    | some e =>
      let s0 := s.t e + bd / 2
      let fin := s.snap.uartCfg.lastStop bd s0
      if s.abs ≤ fin then none
      else if s.logical ch s0 then some ([.line (BitVec.ofNat 32 s0) role .startErr], s.t e + 1)
      else some (s.frameEvents role ch bd s0, fin + 1)

/-! ## Control lines (R196, R197) -/

/-- The event of one transition of a control-line pass. -/
def State.ctrlEvents (s : State) (role : Role) (ch i : Nat) : List Event :=
  if s.edge ch i then [.line (BitVec.ofNat 32 (s.t i)) role (if s.lineAt ch i then .high else .low)] else []

/-! ## The merge (R204) -/

/-- Order of the merge: by TIME. -/
def recordLe (a b : Record) : Bool := decide (a.1.toNat ≤ b.1.toNat)

/-- Put a record before the first one that is not earlier than it. -/
def insertRecord (r : Record) : List Record → List Record
  | [] => [r]
  | q :: rest => if recordLe r q then r :: q :: rest else q :: insertRecord r rest

/-- Stable sort by TIME: equal times keep their order (R204). -/
def sortRecords : List Record → List Record
  | [] => []
  | r :: rest => insertRecord r (sortRecords rest)

/-- `merge()` (R204): records 0 to EVT_COUNT - 1 in stable time order. -/
def State.merge (s : State) : State := { s with mem := s.mem.writeRecords 0 (sortRecords s.records) }

/-! ## The steps (R218, R195) -/

/-- An estimator run (R183): the bit duration goes to BAUD_RX' or BAUD_TX', and a zero one sets the line's flag and
ends its pass. -/
def State.uartEstimate (s : State) (scan : UartScan) (role : Role) (ch : Nat) (rest : List UartItem) : State :=
  let bd := (s.estimate (1#32 <<< ch)).best
  let work := if bd = 0 then rest else .frame role ch bd scan.t0 :: rest
  match role with
  | .txd =>
    { s with noBaudTx := s.noBaudTx || bd == 0
             seq := .uart { scan with work := work, baudTx := BitVec.ofNat 32 bd } }
  | _ =>
    { s with noBaudRx := s.noBaudRx || bd == 0
             seq := .uart { scan with work := work, baudRx := BitVec.ofNat 32 bd } }

/-- Take the events of an iteration; an overflow drops every iteration left, so that the merge is next (R221). -/
def State.uartEmit (s : State) (scan : UartScan) (work : List UartItem) (es : List Event) : State :=
  let s' := s.emitAll es
  { s' with seq := .uart { scan with work := if s'.evtOvf then [] else work } }

/-- A cancel seen by a poll: every pass and iteration left is abandoned, and the merge is next (R219). -/
def State.uartCancel (s : State) (scan : UartScan) : State :=
  { s with cancelled := true, seq := .uart { scan with work := [] } }

/-- One iteration of a data-line loop (R181). -/
def State.uartFrame (s : State) (scan : UartScan) (role : Role) (ch bd pos : Nat) (rest : List UartItem) : State :=
  match s.frameIterate role ch bd pos scan.t1 with
  | none => s.uartEmit scan rest []
  | some (es, pos') => s.uartEmit scan (.frame role ch bd pos' :: rest) es

/-- One sequencer step of a scanning UART decode (R218): an estimator run, which does not poll; a poll and one
iteration of a data-line or control-line pass (R195); or, with no iteration left, the merge. That a cancel takes the poll's
step whole is DEDUCED, assumption 14. -/
def State.uartStep (s : State) (scan : UartScan) : State :=
  match scan.work with
  | [] => { s.merge with seq := .uartClosing scan.baudRx scan.baudTx }
  | .estimate role ch :: rest => s.uartEstimate scan role ch rest
  | .frame role ch bd pos :: rest =>
    if s.cancelReq then s.uartCancel scan
    else s.uartFrame scan role ch bd pos rest
  | .ctrl role ch i :: rest =>
    if s.cancelReq then s.uartCancel scan
    else s.uartEmit scan rest (s.ctrlEvents role ch i)

/-- The start of the rule: NO_STORE, else the region is fixed once and the passes begin (R175, R217), with the
first iteration in this same step: DEDUCED, assumption 14. -/
def State.uartBegin (s : State) : State :=
  if !s.storeValid then s.complete .noStore else s.uartStep s.uartScan

/-- The next step of a running UART decode. -/
def State.runUart (s : State) : State :=
  match s.seq with
  | .pending _ => s.uartBegin
  | .uart scan => s.uartStep scan
  | .uartClosing rx tx => { s.completeDecode with baudRx := rx, baudTx := tx }
  | .idle | .spi _ | .spiClosing => s

/-- DECODE_UART (R175). -/
def execDecodeUart (s : State) : Host.Outcome State Fault Refusal :=
  commandStep .decodeUart State.runUart s

end Sys2Proof.Machine
end

