-- ==== Sys2Proof/Machine/Dispatch.lean ====
section
/-! DEFINITION. One arm per operation of spec/opcode_table.json: one atomic step of it (spec/44_sequencer.md R218,
spec/30_encoding.md R94). A CMD operation in the host's turn is the write of its command word, in the sequencer's
turn the next step of its run; an MMIO operation is its register write. -/

namespace Sys2Proof.Machine

def exec (i : Instr) (s : State) : Host.Outcome State Fault Refusal :=
  match i with
  | .nop => Sys2Proof.Machine.execNop s
  | .storeClear => Sys2Proof.Machine.execStoreClear s
  | .storeCommit => Sys2Proof.Machine.execStoreCommit s
  | .queryIndex => Sys2Proof.Machine.execQueryIndex s
  | .queryValue => Sys2Proof.Machine.execQueryValue s
  | .estimateBaud => Sys2Proof.Machine.execEstimateBaud s
  | .decodeSpi => Sys2Proof.Machine.execDecodeSpi s
  | .decodeUart => Sys2Proof.Machine.execDecodeUart s
  | .illegalCmd opc rsvd => Sys2Proof.Machine.execIllegalCmd opc rsvd s
  | .statusW1c w => Sys2Proof.Machine.execStatusW1c w s
  | .ctrlWr w => Sys2Proof.Machine.execCtrlWr w s
  | .arg0Wr w => Sys2Proof.Machine.execArg0Wr w s
  | .stAbslenWr w => Sys2Proof.Machine.execStAbslenWr w s
  | .stTriggerWr w => Sys2Proof.Machine.execStTriggerWr w s
  | .stRateWr w => Sys2Proof.Machine.execStRateWr w s
  | .stCfgWr w => Sys2Proof.Machine.execStCfgWr w s
  | .stEnmaskWr w => Sys2Proof.Machine.execStEnmaskWr w s
  | .cursorCtlWr w => Sys2Proof.Machine.execCursorCtlWr w s
  | .cursorAWr w => Sys2Proof.Machine.execCursorAWr w s
  | .cursorBWr w => Sys2Proof.Machine.execCursorBWr w s
  | .pushValueWr w => Sys2Proof.Machine.execPushValueWr w s
  | .pushTs t => Sys2Proof.Machine.execPushTs t s
  | .rawSample v => Sys2Proof.Machine.execRawSample v s
  | .spiChWr w => Sys2Proof.Machine.execSpiChWr w s
  | .spiModeWr w => Sys2Proof.Machine.execSpiModeWr w s
  | .uartCfgWr w => Sys2Proof.Machine.execUartCfgWr w s
  | .uartLines0Wr w => Sys2Proof.Machine.execUartLines0Wr w s
  | .uartLines1Wr w => Sys2Proof.Machine.execUartLines1Wr w s

end Sys2Proof.Machine
end

