-- ==== Sys2Proof/Machine/Turns.lean ====
section
/-! DEFINITION. What one step of each agent does (spec/20_memory.md R79, spec/44_sequencer.md R218): a host access, a
sequencer step or an event of the reset input (spec/70_reset_and_hazards.md R260). -/

namespace Sys2Proof.Machine

/-- A bus write reaches the block: the operation it decodes to, or a write that is dropped or ignored. -/
def deliver (b : BusWrite) (s : State) : Host.Outcome State Fault Refusal :=
  match decodeWrite b with
  | .operation i => exec i s
  | .rejected r => .next (s.dropWrite r)

/-- A host operation while reset is asserted: no access has an effect and every read returns 0, so that a WAITDONE loop
goes on waiting (R260). -/
def hostInReset (op : HostOp) (s : State) : State :=
  match op with
  | .write _ => s
  | .read _ _ => s.readReturns 0#32
  | .waitDone => { s.readReturns 0#32 with host := { delay := 1, op := .waitDone } :: s.host }

/-- The host's turn: its next operation, which no longer waits in `s.host`. -/
def hostTurn (op : HostOp) (s : State) : Host.Outcome State Fault Refusal :=
  if s.inReset then .next (hostInReset op s)
  else
    match op with
    | .write b => deliver b s
    | .read size addr => .next (s.busRead size addr)
    | .waitDone => .next s.pollDone

/-- The sequencer's turn: the next step of the running command; an idle sequencer holds all state (R255), and so does
one in reset (R263). -/
def sequencerTurn (s : State) : Host.Outcome State Fault Refusal :=
  if s.inReset then .next s
  else
    match s.seq.command with
    | none => .next s
    | some c => exec c.instr { s with turn := .sequencer }

/-- The host and the sequencer: the host's next operation when its delay has run out, else the sequencer. -/
def agentsTurn (s : State) : Host.Outcome State Fault Refusal :=
  match s.host with
  | [] => sequencerTurn s.hardwarePublishes
  | slot :: rest =>
    if slot.delay = 0 then hostTurn slot.op { s.hardwarePublishes with host := rest, turn := .host }
    else sequencerTurn { s.hardwarePublishes with host := { slot with delay := slot.delay - 1 } :: rest }

/-- One step of the whole machine: the platform's next reset event when its delay has run out, else an agent. -/
def anyTurn (s : State) : Host.Outcome State Fault Refusal :=
  match s.platform with
  | [] => agentsTurn s
  | slot :: rest =>
    if slot.delay = 0 then .next (State.resetEvent slot.event { s with platform := rest })
    else agentsTurn { s with platform := { slot with delay := slot.delay - 1 } :: rest }

/-- `s` with a bus write as the very next thing that happens: the host issues it now, no reset event comes before it,
and reset is not asserted. -/
def State.withWrite (b : BusWrite) (s : State) : State :=
  { s with host := { delay := 0, op := .write b } :: s.host, platform := [], inReset := false }

end Sys2Proof.Machine
end

