-- ==== Sys2Proof/Machine/Step.lean ====
section
/-! DEFINITION. The step of the machine: one atomic step of one agent (spec/20_memory.md R79). -/

namespace Sys2Proof.Machine

/-- One atomic step: the plans in State say which agent takes it. -/
def step (s : State) : Host.Outcome State Fault Refusal := anyTurn s

/-- `s` with the operation of an opcode-table word as its next instruction (assumptions 4 and 8). -/
def State.withFetchWord (s : State) (nbits w : Nat) : State := s.withWrite (tableWrite nbits w)

end Sys2Proof.Machine
end

