-- ==== Sys2Proof/Machine/HostScript.lean ====
section
/-! DEFINITION. The host script notation (spec/30_encoding.md R104, R105): each line as the host operations it stands
for, with no delay before any of them. -/

namespace Sys2Proof.Machine

/-- The register names of spec/10_state.md section 2. -/
inductive RegisterName where
  | id | nMax | eMax | cmd | status | ctrl | errCode | arg0 | result0 | result1 | result2 | progress
  | evtCount | symCount | errCount | stNTrans | stAbsLen | stTrigger | stRate | stCfg | stEnMask
  | cursorCtl | cursorA | cursorB | pushValue | pushTs | rawSample | rawCount
  | spiCh | spiMode | uartCfg | uartLines0 | uartLines1 | baudRx | baudTx
  deriving DecidableEq, Repr

/-- The byte offset of a register (spec/10_state.md section 2). -/
def RegisterName.offset : RegisterName → Nat
  | .id => 0x000
  | .nMax => 0x004
  | .eMax => 0x008
  | .cmd => 0x010
  | .status => 0x014
  | .ctrl => 0x018
  | .errCode => 0x01C
  | .arg0 => 0x020
  | .result0 => 0x024
  | .result1 => 0x028
  | .result2 => 0x02C
  | .progress => 0x030
  | .evtCount => 0x034
  | .symCount => 0x038
  | .errCount => 0x03C
  | .stNTrans => 0x040
  | .stAbsLen => 0x044
  | .stTrigger => 0x048
  | .stRate => 0x04C
  | .stCfg => 0x050
  | .stEnMask => 0x054
  | .cursorCtl => 0x058
  | .cursorA => 0x05C
  | .cursorB => 0x060
  | .pushValue => 0x064
  | .pushTs => 0x068
  | .rawSample => 0x06C
  | .rawCount => 0x070
  | .spiCh => 0x080
  | .spiMode => 0x084
  | .uartCfg => 0x088
  | .uartLines0 => 0x08C
  | .uartLines1 => 0x090
  | .baudRx => 0x094
  | .baudTx => 0x098

/-- A word of one of the two windows, as RDW names it (R104). -/
inductive WindowWord where
  | transV (i : Nat)
  | transT (i : Nat)
  | evtTime (k : Nat)
  | evtInfo (k : Nat)
  deriving DecidableEq, Repr

/-- The byte offset of a window word (R73). -/
def WindowWord.offset : WindowWord → Nat
  | .transV i => transAddr i
  | .transT i => transAddr i + 4
  | .evtTime k => eventAddr k
  | .evtInfo k => eventAddr k + 4

/-- A host program: the operations in the order the host issues them. -/
abbrev Script := List HostSlot

/-- An operation with no delay. -/
def HostOp.now (op : HostOp) : HostSlot := { delay := 0, op := op }

/-- `WR target, value` with an offset literal: one `MemWrite(offset, 4, value)` (R104). -/
def Script.wrOffset (offset : Nat) (v : Word) : Script := [(HostOp.write (wordWrite offset v)).now]

/-- `WR target, value` with a register name. -/
def Script.wr (r : RegisterName) (v : Word) : Script := Script.wrOffset r.offset v

/-- `RD target` with an offset literal, a reserved or misaligned one too: one `MemRead(offset, 4)` (R104). -/
def Script.rdOffset (offset : Nat) : Script := [(HostOp.read .word (BitVec.ofNat 32 offset)).now]

/-- `RD target` with a register name. -/
def Script.rd (r : RegisterName) : Script := Script.rdOffset r.offset

/-- `RDW target[index]` (R104). -/
def Script.rdw (x : WindowWord) : Script := Script.rdOffset x.offset

/-- `CMD mnemonic`: the write of the command's word (R104, R91). -/
def Script.cmd (c : Command) : Script := [(HostOp.write (encode c.instr)).now]

/-- `PUSH v, t` (R105). -/
def Script.push (v t : Word) : Script := Script.wr .pushValue v ++ Script.wr .pushTs t

/-- `WAITDONE` (R105): the loop itself is the host's, one poll a turn. -/
def Script.waitDone : Script := [HostOp.waitDone.now]

/-- `ACK`: `WR STATUS, 0x00000002` (R105). -/
def Script.ack : Script := Script.wr .status 0x00000002#32

/-- `RUN m`: `CMD m`, `WAITDONE`, `ACK` (R105). -/
def Script.run (c : Command) : Script := Script.cmd c ++ Script.waitDone ++ Script.ack

/-- `CANCEL`: `WR CTRL, 0x00000002`, which also writes IRQ_EN = 0 (R105). -/
def Script.cancel : Script := Script.wr .ctrl 0x00000002#32

/-- `CANCELI`: `WR CTRL, 0x00000003`, which keeps IRQ_EN = 1 (R105). -/
def Script.cancelI : Script := Script.wr .ctrl 0x00000003#32

/-- `LINE role, ch`: the constant `0x80 | ch` in the role's byte of UART_LINES0 or UART_LINES1 (R105, R54); a role that
is no UART role has no byte. -/
def Script.line (role : Role) (ch : BitVec 5) : Word :=
  let b : Word := 0x80#32 ||| BitVec.zeroExtend 32 ch
  match role with
  | .rxd | .dtr => b
  | .txd | .dsr => b <<< 8
  | .cts | .dcd => b <<< 16
  | .rts | .ri => b <<< 24
  | .mosi | .miso | .cs => 0#32

end Sys2Proof.Machine
end

