-- ==== Sys2Proof/Machine/CaptureFile.lean ====
section
/-! DEFINITION. The capture file on the host's side (spec/40_store.md R134 to R138): the loader, which turns the lines
of a file into the host's bus accesses or a structured format error, and the serialiser of a committed store. The
block itself parses no file (spec/00_scope.md R6). A line is a list of characters without its line end. -/

namespace Sys2Proof.Machine

/-- One line of a capture file. -/
abbrev TextLine := List Char

/-- The structured format errors of R137: those of the text, and a STORE_COMMIT error, which is one of the load too. -/
inductive FormatError where
  /-- a corrupt header line -/
  | corruptHeader
  /-- a required key that no header line gives -/
  | missingField
  /-- Size outside its accepted bound -/
  | sizeOutOfBound
  /-- an undecodable hex payload, or an unparsable hex value or timestamp -/
  | badPayload
  /-- a malformed value of CursorEnabled, CursorA or CursorB -/
  | badCursor
  /-- a count of data lines different from Size -/
  | lineCount
  /-- STORE_COMMIT completed with this ERRCODE (R121, R137) -/
  | commitFailed (code : Word)
  deriving DecidableEq, Repr

/-! ## Numbers -/

/-- The value of a decimal digit. -/
def decimalDigit (c : Char) : Option Nat :=
  if 48 ≤ c.toNat ∧ c.toNat ≤ 57 then some (c.toNat - 48) else none

/-- The value of a hexadecimal digit, of either case (R138). -/
def hexDigit (c : Char) : Option Nat :=
  if 48 ≤ c.toNat ∧ c.toNat ≤ 57 then some (c.toNat - 48)
  else if 97 ≤ c.toNat ∧ c.toNat ≤ 102 then some (c.toNat - 87)
  else if 65 ≤ c.toNat ∧ c.toNat ≤ 70 then some (c.toNat - 55)
  else none

/-- Read digits onto an accumulator; none at a character that is no digit. -/
def readDigits (base : Nat) (digit : Char → Option Nat) : Nat → List Char → Option Nat
  | acc, [] => some acc
  | acc, c :: rest =>
    match digit c with
    | some d => readDigits base digit (acc * base + d) rest
    | none => none

/-- A decimal number: at least one digit. -/
def readDecimal (cs : List Char) : Option Nat :=
  if cs.isEmpty then none else readDigits 10 decimalDigit 0 cs

/-- A decimal number with an optional minus sign (R134: a negative value means NOT_AVAILABLE). -/
def readSigned (cs : List Char) : Option Int :=
  match cs with
  | '-' :: rest => (readDecimal rest).map (fun n => -(n : Int))
  | _ => (readDecimal cs).map (fun n => (n : Int))

/-- `true` or `false` (D55). -/
def readBool (cs : List Char) : Option Bool :=
  if cs = ['t', 'r', 'u', 'e'] then some true
  else if cs = ['f', 'a', 'l', 's', 'e'] then some false
  else none

/-- A number that a 32-bit register can hold; a larger one is unparsable. -/
def fitsWord (n : Nat) : Option Word := if n < 2 ^ 32 then some (BitVec.ofNat 32 n) else none

/-! ## Header lines (R134) -/

/-- The metadata keys of R134. -/
inductive HeaderKey where
  | size | rate | channels | enabledChannels | triggerPosition | cursorEnabled | cursorA | cursorB
  | compressed | absoluteLength
  deriving DecidableEq, Repr

/-- A key as the file spells it. -/
def HeaderKey.text : HeaderKey → List Char
  | .size => ['S', 'i', 'z', 'e']
  | .rate => ['R', 'a', 't', 'e']
  | .channels => ['C', 'h', 'a', 'n', 'n', 'e', 'l', 's']
  | .enabledChannels => ['E', 'n', 'a', 'b', 'l', 'e', 'd', 'C', 'h', 'a', 'n', 'n', 'e', 'l', 's']
  | .triggerPosition => ['T', 'r', 'i', 'g', 'g', 'e', 'r', 'P', 'o', 's', 'i', 't', 'i', 'o', 'n']
  | .cursorEnabled => ['C', 'u', 'r', 's', 'o', 'r', 'E', 'n', 'a', 'b', 'l', 'e', 'd']
  | .cursorA => ['C', 'u', 'r', 's', 'o', 'r', 'A']
  | .cursorB => ['C', 'u', 'r', 's', 'o', 'r', 'B']
  | .compressed => ['C', 'o', 'm', 'p', 'r', 'e', 's', 's', 'e', 'd']
  | .absoluteLength => ['A', 'b', 's', 'o', 'l', 'u', 't', 'e', 'L', 'e', 'n', 'g', 't', 'h']

/-- Every key. -/
def HeaderKey.all : List HeaderKey :=
  [.size, .rate, .channels, .enabledChannels, .triggerPosition, .cursorEnabled, .cursorA, .cursorB, .compressed,
    .absoluteLength]

/-- The header as read so far. -/
structure FileHeader where
  size : Option Nat
  rate : Option Int
  channels : Option Nat
  enabledChannels : Option Int
  triggerPosition : Option Int
  cursorEnabled : Option Bool
  cursorA : Option Int
  cursorB : Option Int
  compressed : Option Bool
  absoluteLength : Option Nat
  deriving DecidableEq, Repr

/-- No key read yet. -/
def FileHeader.empty : FileHeader :=
  { size := none, rate := none, channels := none, enabledChannels := none, triggerPosition := none,
    cursorEnabled := none, cursorA := none, cursorB := none, compressed := none, absoluteLength := none }

/-- Give up with an error where a value cannot be read. -/
def orError {α : Type} (e : FormatError) (o : Option α) : Except FormatError α :=
  match o with
  | some a => .ok a
  | none => .error e

/-- Store one key's value; a value that cannot be read is an error (R137). DESIGN CHOICE, assumption 15: a malformed
CursorEnabled is a malformed cursor value and not a corrupt header line, and a negative Size, Channels or AbsoluteLength is a
corrupt header line and, for Size, not a size out of its bound. -/
def FileHeader.set (h : FileHeader) (k : HeaderKey) (v : List Char) : Except FormatError FileHeader :=
  match k with
  | .size => (orError .corruptHeader (readDecimal v)).map (fun n => { h with size := some n })
  | .rate => (orError .corruptHeader (readSigned v)).map (fun n => { h with rate := some n })
  | .channels => (orError .corruptHeader (readDecimal v)).map (fun n => { h with channels := some n })
  | .enabledChannels => (orError .corruptHeader (readSigned v)).map (fun n => { h with enabledChannels := some n })
  | .triggerPosition => (orError .corruptHeader (readSigned v)).map (fun n => { h with triggerPosition := some n })
  | .cursorEnabled => (orError .badCursor (readBool v)).map (fun b => { h with cursorEnabled := some b })
  | .cursorA => (orError .badCursor (readSigned v)).map (fun n => { h with cursorA := some n })
  | .cursorB => (orError .badCursor (readSigned v)).map (fun n => { h with cursorB := some n })
  | .compressed => (orError .corruptHeader (readBool v)).map (fun b => { h with compressed := some b })
  | .absoluteLength => (orError .corruptHeader (readDecimal v)).map (fun n => { h with absoluteLength := some n })

/-- Split `Key: value` at the first colon; none without a colon and a space after it. -/
def splitKey : List Char → Option (List Char × List Char)
  | [] => none
  | ':' :: ' ' :: rest => some ([], rest)
  | c :: rest => if c = ':' then none else (splitKey rest).map (fun p => (c :: p.1, p.2))

/-- One metadata line `;Key: value` (R134). A key outside R134 makes the line corrupt: DESIGN CHOICE, assumption 9. -/
def FileHeader.readLine (h : FileHeader) (l : TextLine) : Except FormatError FileHeader :=
  match l with
  | ';' :: rest =>
    match splitKey rest with
    | none => .error .corruptHeader
    | some (k, v) =>
      match HeaderKey.all.find? (fun key => key.text == k) with
      | none => .error .corruptHeader
      | some key => h.set key v
  | _ => .error .corruptHeader

/-- Read metadata lines in order. -/
def FileHeader.readLines : FileHeader → List TextLine → Except FormatError FileHeader
  | h, [] => .ok h
  | h, l :: rest =>
    match h.readLine l with
    | .error e => .error e
    | .ok h' => h'.readLines rest

/-- A metadata line is one prefixed with a semicolon. -/
def isMetadata (l : TextLine) : Bool := l.head? == some ';'

/-! ## Data lines (R135, R136) -/

/-- `8 hex digits @ decimal timestamp` (R135): the pushed value and timestamp. -/
def readCompressedLine (l : TextLine) : Option (Word × Word) :=
  match readDigits 16 hexDigit 0 (l.take 8), l.drop 8 with
  | some v, '@' :: ts =>
    if (l.take 8).length = 8 then
      match (readDecimal ts).bind fitsWord with
      | some t => some (BitVec.ofNat 32 v, t)
      | none => none
    else none
  | _, _ => none

/-- One hex value of a raw sample (R136): one to eight digits. -/
def readLegacyLine (l : TextLine) : Option Word :=
  if l.isEmpty || decide (8 < l.length) then none
  else (readDigits 16 hexDigit 0 l).bind fitsWord

/-- Read every line with one reader, or none. -/
def readAll {α : Type} (f : TextLine → Option α) : List TextLine → Option (List α)
  | [] => some []
  | l :: rest =>
    match f l, readAll f rest with
    | some a, some as => some (a :: as)
    | _, _ => none

/-! ## The loader (R112, R134, R137) -/

/-- A cursor value as a register word: a value outside 32 bits is a range violation and is clamped (C6). -/
def cursorWord (n : Int) : Word := BitVec.ofNat 32 (min n.toNat (2 ^ 32 - 1))

/-- An available value: not absent and not negative (D55). -/
def available (o : Option Int) : Option Nat :=
  match o with
  | some n => if n < 0 then none else some n.toNat
  | none => none

/-- An optional register write. -/
def Script.wrSome (r : RegisterName) (o : Option Word) : Script :=
  match o with
  | some w => Script.wr r w
  | none => []

/-- The header writes (R134): ST_CFG, ST_RATE, ST_TRIGGER, ST_ENMASK, the cursors and, for a compressed file,
ST_ABSLEN. That the cursors are written here, before STORE_COMMIT and not after it, is a DESIGN CHOICE: assumption 9. -/
def FileHeader.writes (h : FileHeader) (channels : Nat) (rate trigger absLen : Option Word) : Script :=
  Script.wr .stCfg (stCfgWord (BitVec.ofNat 6 (min channels 63)) trigger.isSome rate.isSome) ++
    Script.wrSome .stRate rate ++ Script.wrSome .stTrigger trigger ++
    Script.wrSome .stEnMask (h.enabledChannels.map (fun n => BitVec.ofInt 32 n)) ++
    Script.wrSome .stAbsLen absLen ++
    Script.wrSome .cursorA (h.cursorA.map cursorWord) ++ Script.wrSome .cursorB (h.cursorB.map cursorWord) ++
    Script.wrSome .cursorCtl (h.cursorEnabled.map (fun b => BitVec.zeroExtend 32 (flagBit b)))

/-- A present number must fit its register. -/
def orWord (o : Option Nat) : Except FormatError (Option Word) :=
  match o with
  | none => .ok none
  | some n => (orError .corruptHeader (fitsWord n)).map some

/-- The load writes of the data lines: pushes for a compressed file, raw samples for a legacy one (R112). -/
def dataWrites (compressed : Bool) (lines : List TextLine) : Except FormatError Script :=
  if compressed then
    (orError .badPayload (readAll readCompressedLine lines)).map
      (fun ps => ps.flatMap (fun p => Script.push p.1 p.2))
  else
    (orError .badPayload (readAll readLegacyLine lines)).map
      (fun vs => vs.flatMap (fun v => Script.wr .rawSample v))

/-- The accepted bound on Size (R137): N_MAX entries of a compressed file, 2^32 - 1 samples of a legacy one. -/
def sizeBound (nMax : Nat) (compressed : Bool) : Nat := if compressed then nMax else 2 ^ 32 - 1

/-- The whole load of a file as a host script, or the format error of its text that rejects it (R137). The script ends
with the read of ERRCODE that tells whether the commit failed (spec/70_reset_and_hazards.md R264). DESIGN CHOICE,
assumption 15: a file with several errors gets the first in the order below (header lines, missing keys, Size, payload,
line count, numbers of 2^32 or more), and a rejected file issues no access at all, so that the block keeps what it has;
R137 asks only that no STORE_COMMIT is issued. -/
def loadFile (nMax : Nat) (lines : List TextLine) : Except FormatError Script := do
  let h ← FileHeader.empty.readLines (lines.takeWhile isMetadata)
  let size ← orError .missingField h.size
  let rate ← orError .missingField h.rate
  let channels ← orError .missingField h.channels
  let compressed := h.compressed == some true
  let absLen ← if compressed then (orError .missingField h.absoluteLength).map some else .ok none
  if size < 1 ∨ sizeBound nMax compressed < size then .error .sizeOutOfBound
  let body := lines.dropWhile isMetadata
  let loads ← dataWrites compressed body
  if body.length ≠ size then .error .lineCount
  let rateWord ← orWord (available (some rate))
  let triggerWord ← orWord (available h.triggerPosition)
  let absWord ← orWord absLen
  .ok (Script.run .storeClear ++ h.writes channels rateWord triggerWord absWord ++ loads ++ Script.run .storeCommit ++
    Script.rd .errCode)

/-- What a load reports once its script has run, from the word of its last read, ERRCODE: a STORE_COMMIT error is a format
error of the load (R137). -/
def State.loadReport (s : State) : Except FormatError Unit :=
  if s.readData = 0#32 then .ok () else .error (.commitFailed s.readData)

/-- The load of a file to its end, where `runScript` is the block after the host has run a script: a format error of the
text, or one of the commit, or success (R137). -/
def loadOutcome (nMax : Nat) (lines : List TextLine) (runScript : Script → State) : Except FormatError Unit :=
  match loadFile nMax lines with
  | .error e => .error e
  | .ok script => (runScript script).loadReport

/-! ## The serialiser (R138) -/

/-- The digit of a value below 16, in lower case. -/
def digitChar (n : Nat) : Char := Char.ofNat (if n < 10 then 48 + n else 87 + n)

/-- Decimal digits, most significant first; the fuel bounds their count. -/
def decimalDigits : Nat → Nat → List Char
  | 0, _ => []
  | fuel + 1, n =>
    if n < 10 then [digitChar n] else decimalDigits fuel (n / 10) ++ [digitChar (n % 10)]

/-- A 32-bit number in decimal without leading zeros. -/
def decimalText (n : Nat) : List Char := decimalDigits 10 n

/-- A word as exactly eight lower-case hex digits. -/
def hexText (w : Word) : List Char :=
  (List.range 8).map (fun k => digitChar (w.extractLsb' (4 * (7 - k)) 4).toNat)

/-- A metadata line. -/
def metadataLine (k : HeaderKey) (v : List Char) : TextLine := ';' :: (k.text ++ ':' :: ' ' :: v)

/-- The data line of transition i (R135). -/
def State.dataLine (s : State) (i : Nat) : TextLine := hexText (s.v i) ++ '@' :: decimalText (s.t i)

/-- A metadata line that a file has only when `present` holds. -/
def metadataLineIf (present : Bool) (k : HeaderKey) (v : List Char) : List TextLine :=
  if present then [metadataLine k v] else []

/-- The compressed file of a committed store (R138): the header registers of R112 with the keys of R134, then the entries.
An optional key stands only where its register differs from what a reset leaves (TRIG_VALID = 1, ST_ENMASK not 0), so
that the store of vector ST-RT gives the file of that vector. DESIGN CHOICE, assumption 9. -/
def State.serialise (s : State) : List TextLine :=
  [metadataLine .size (decimalText s.nTrans.toNat),
    metadataLine .rate (if s.rateValid then decimalText s.rate.toNat else ['-', '1']),
    metadataLine .channels (decimalText s.channels.toNat)] ++
    metadataLineIf (s.enMask != 0#32) .enabledChannels (decimalText s.enMask.toNat) ++
    metadataLineIf s.trigValid .triggerPosition (decimalText s.trigger.toNat) ++
    [metadataLine .compressed ['t', 'r', 'u', 'e'], metadataLine .absoluteLength (decimalText s.abs)] ++
    (List.range s.nTrans.toNat).map s.dataLine

end Sys2Proof.Machine
end

