-- ==== Sys2Proof/Safety.lean ====
section
/-! DEFINITION. What a good state and a good run are, in the terms the statements use: the invariants that
spec/40_store.md R111, spec/44_sequencer.md R217, R222, spec/60_exceptions.md R236 and the register rules of
spec/10_state.md give, and the whole output of an undisturbed decode. -/

namespace Sys2Proof.Safety

open Sys2Proof.Machine

/-! ## Runs -/

/-- A step of the machine goes on: the block has no trap and no state in which it stops (R237). -/
def GoesOn (s : State) : Prop := ∃ t, step s = .next t

/-- `k` steps of the machine lead from `s` to `t`. -/
def Reaches (k : Nat) (s t : State) : Prop := Sys2Proof.core.run k s = .next t

/-- The platform does nothing: reset is not asserted, and it will not be. -/
structure NoReset (s : State) : Prop where
  platform : s.platform = []
  outOfReset : s.inReset = false

/-- What the host still does, if anything, is to read and to poll with WAITDONE (R105): it writes no register. -/
def OnlyWatched (s : State) : Prop := ∀ slot ∈ s.host, slot.op = .waitDone ∨ ∃ size a, slot.op = .read size a

/-! ## Invariants -/

/-- The committed-store invariants of R111. -/
structure StoreInv (s : State) : Prop where
  nonEmpty : 1 ≤ s.nTrans.toNat
  timeZero : s.t 0 = 0
  rising : ∀ i < s.nTrans.toNat, 1 ≤ i → s.t (i - 1) < s.t i
  differs : ∀ i < s.nTrans.toNat, 1 ≤ i → s.v (i - 1) ≠ s.v i
  covers : s.t (s.nTrans.toNat - 1) ≤ s.abs
  lengthPositive : 1 ≤ s.abs
  cursorA : s.cursorA.toNat ≤ s.abs - 1
  cursorB : s.cursorB.toNat ≤ s.abs - 1

/-- What a raw load keeps from its first sample on (R119; the corner case of R121). -/
structure RawLoadInv (s : State) : Prop where
  nonEmpty : 1 ≤ s.nTrans.toNat
  timeZero : s.t 0 = 0
  rising : ∀ i < s.nTrans.toNat, 1 ≤ i → s.t (i - 1) < s.t i
  differs : ∀ i < s.nTrans.toNat, 1 ≤ i → s.v (i - 1) ≠ s.v i
  counted : s.t (s.nTrans.toNat - 1) < s.rawCount.toNat

/-- Every register field holds a legal value (R9, R30, R31, R34, R38, R45, R53). -/
structure FieldInv (s : State) : Prop where
  nMax : 1 ≤ s.nMax.toNat ∧ s.nMax.toNat ≤ 2 ^ 21
  eMax : 1 ≤ s.eMax.toNat ∧ s.eMax.toNat ≤ 2 ^ 21
  nTrans : s.nTrans.toNat ≤ s.nMax.toNat
  evtCount : s.evtCount.toNat ≤ s.eMax.toNat
  progress : s.progress.toNat ≤ 100
  channels : 1 ≤ s.channels.toNat ∧ s.channels.toNat ≤ 32
  spiBits : 4 ≤ s.spiMode.bits.toNat ∧ s.spiMode.bits.toNat ≤ 16
  dataBits : 5 ≤ s.uartCfg.dataBits.toNat ∧ s.uartCfg.dataBits.toNat ≤ 9

/-- A running command that has not met its stop: pending, or with an iteration still to come (R219, R221). -/
def iterating : Seq → Bool
  | .pending _ | .spi _ => true
  | .uart scan => !scan.work.isEmpty
  | .idle | .spiClosing | .uartClosing _ _ => false

/-- The sequencer and its flags (R216, R217, R219, R233, R236, R263). -/
structure SequencerInv (s : State) : Prop where
  running : s.busy = true → s.done = false ∧ s.errCode = .ok ∧ s.snap = s.snapshot
  request : s.cancelReq = true → s.seq.isDecode = true
  oneStop : ¬(s.cancelled = true ∧ s.evtOvf = true)
  notStopped : iterating s.seq = true → s.cancelled = false ∧ s.evtOvf = false
  committed : s.seq.scanning = true → s.storeValid = true
  resetIdle : s.inReset = true → s.seq = .idle

/-- The load registers (R115, R117, R119, R121). -/
structure LoadInv (s : State) : Prop where
  fresh : s.loadMode = .none → s.nTrans = 0#32 ∧ s.rawCount = 0#32
  raw : s.loadMode = .raw → RawLoadInv s
  committed : s.storeValid = true → s.loadOvf = false ∧ s.loadMixed = false

/-- The invariant of the whole machine. -/
structure Inv (s : State) : Prop where
  memory : s.mem.wf = true
  fields : FieldInv s
  load : LoadInv s
  store : s.storeValid = true → StoreInv s
  sequencer : SequencerInv s

/-! ## The whole output of an undisturbed decode -/

/-- The events of the SPI loop over `n` more transitions (R155). -/
def spiEvents (s : State) : Nat → SpiScan → List Event
  | 0, _ => []
  | n + 1, scan => (s.spiIterate scan).2 ++ spiEvents s n (s.spiIterate scan).1

/-- The events of DECODE_SPI over its region, in emission order (R155, R169). -/
def spiOutput (s : State) (r : SpiRegion) : List Event :=
  spiEvents s (r.stop - r.start)
    { next := r.start, stop := r.stop, accMosi := 0#16, accMiso := 0#16, count := 0 }

/-- The events of at most `n` iterations of a data-line loop (R181). -/
def dataLineEvents (s : State) (role : Role) (ch bd t1 : Nat) : Nat → Nat → List Event
  | 0, _ => []
  | n + 1, pos =>
    match s.frameIterate role ch bd pos t1 with
    | none => []
    | some (es, pos') => es ++ dataLineEvents s role ch bd t1 n pos'

/-- The events of the pass of one line (R181, R183, R196); NV + 1 iterations are enough (R223). -/
def lineEvents (s : State) (r : UartRegion) (role : Role) (ch : Nat) : List Event :=
  match role with
  | .rxd | .txd =>
    let bd := (estimateOf (s.durations (1#32 <<< ch))).best
    if bd = 0 then [] else dataLineEvents s role ch bd r.t1 (s.nv + 1) r.t0
  | _ => (s.ctrlIndices r).flatMap (fun i => s.ctrlEvents role ch i)

/-- The events of DECODE_UART in emission order: every pass in order (R175, R180). -/
def uartOutput (s : State) : List Event :=
  s.snap.usedLines.flatMap (fun l => lineEvents s s.uartRegion l.1 l.2)

/-- The records of a list of events that a memory of `cap` records takes (R172, R221). -/
def taken (cap : Nat) (es : List Event) : List Record := (es.map Event.record).take cap

/-- Records in non-decreasing TIME order (R75, R208). -/
def TimeOrdered (rs : List Record) : Prop := rs.Pairwise (fun a b => a.1.toNat ≤ b.1.toNat)

end Sys2Proof.Safety
end

