-- ==== Sys2Proof/Certificates/Slice0/Obligations.lean ====
section
/-! DEFINITION. The statements about the block, for the provers. Each docstring names the rules of spec/ that it
formalises. In every statement about `exec` of a CMD operation, `s.turn = .host` is the host's write of the command
word and `s.turn = .sequencer` the next step of the running command (spec/44_sequencer.md R216, R218). -/

open Sys2Proof Sys2Proof.Machine Sys2Proof.Safety

/-! ## Terms of the statements -/

namespace Sys2Proof.Statement

/-- `s` after the completion step of a command that wrote nothing else (R233). -/
def completed (s : State) (code : ErrCode) : State :=
  { s with errCode := code, cancelReq := false, seq := .idle, done := true }

/-- `s` with what a decode that ran to its completion in `t` may change: the event memory, the outcome flags, the counts,
PROGRESS, the snapshot and the model's own bookkeeping; and what the host's reads in between change, BUS_ERR among it
(R72). -/
def decoded (s t : State) : State :=
  { s with
    mem := t.mem
    done := t.done
    errCode := t.errCode
    cancelled := t.cancelled
    evtOvf := t.evtOvf
    cancelReq := false
    progress := t.progress
    evtCount := t.evtCount
    symCount := t.symCount
    errCount := t.errCount
    snap := s.snapshot
    seq := .idle
    turn := .sequencer
    draws := t.draws
    busErr := t.busErr
    readData := t.readData
    host := t.host }

/-- The scan state with which the next step of an SPI decode works: the stored one, or in the step that starts the rule
one at the region's start (R155, R218; assumption 14). -/
def SpiScanAt (s : State) (scan : SpiScan) : Prop :=
  s.seq = .spi scan ∨
    (∃ c, s.seq = .pending c) ∧ s.storeValid = true ∧
      ∃ r, s.spiRegion = some r ∧
        scan = { next := r.start, stop := r.stop, accMosi := 0#16, accMiso := 0#16, count := 0 }

/-- The scan state with which the next step of a UART decode works: the stored one, or in the step that starts the rule
the one at the start of the first pass (R175, R180, R218; assumption 14). -/
def UartScanAt (s : State) (scan : UartScan) : Prop :=
  s.seq = .uart scan ∨ (∃ c, s.seq = .pending c) ∧ s.storeValid = true ∧ scan = s.uartScan

/-- The events of the RxD pass of DECODE_UART, none when RxD is unused (R180). -/
def rxdOutput (s : State) : List Event :=
  (s.snap.usedLines.filter (fun l => l.1 == .rxd)).flatMap (fun l => lineEvents s s.uartRegion l.1 l.2)

/-- The register writes that BUSY locks (R49). -/
def busyLockedWrites (w : Word) : List Instr :=
  [.arg0Wr w, .cursorCtlWr w, .cursorAWr w, .cursorBWr w, .spiChWr w, .spiModeWr w, .uartCfgWr w, .uartLines0Wr w,
    .uartLines1Wr w]

/-- The register writes that BUSY and STORE_VALID lock (R49). -/
def storeLockedWrites (w : Word) : List Instr :=
  [.stAbslenWr w, .stTriggerWr w, .stRateWr w, .stCfgWr w, .stEnmaskWr w, .pushValueWr w, .pushTs w, .rawSample w]

/-- The offsets of the register block that no register has (spec/10_state.md section 2). -/
def reservedOffset (a : Nat) : Prop := a = 0x00C ∨ (0x074 ≤ a ∧ a ≤ 0x07C) ∨ (0x09C ≤ a ∧ a ≤ 0x0FF)

/-- Outside the register block and both windows (R73). -/
def outsideRegions (a : Nat) : Prop := (0x100 ≤ a ∧ a < 0x01000000) ∨ 0x03000000 ≤ a

/-- An access that R72 refuses whether it reads or writes. -/
def refusedAccess (size : AccessSize) (a : Nat) : Prop :=
  size ≠ .word ∨ a % 4 ≠ 0 ∨ reservedOffset a ∨ outsideRegions a

/-- Registers that read 0 after reset (R261). -/
def zeroAtReset : List Nat :=
  [0x010, 0x014, 0x018, 0x01C, 0x020, 0x024, 0x028, 0x02C, 0x030, 0x034, 0x038, 0x03C, 0x040, 0x044, 0x048, 0x04C,
    0x054, 0x058, 0x05C, 0x060, 0x064, 0x068, 0x06C, 0x070, 0x080, 0x08C, 0x090, 0x094, 0x098]

/-- Every item of R261 at its reset value, for a block of capacities `n` and `e`. -/
def AtReset (n e : Word) (s : State) : Prop :=
  s.register 0x000 = some 0x4A4C4143#32 ∧ s.register 0x004 = some n ∧ s.register 0x008 = some e ∧
    s.register 0x050 = some 0x00000020#32 ∧ s.register 0x084 = some 0x00000800#32 ∧
    s.register 0x088 = some 0x00000800#32 ∧ (∀ a ∈ zeroAtReset, s.register a = some 0#32) ∧
    s.loadMode = .none ∧ s.cancelReq = false ∧ s.irq = false ∧ s.seq = .idle ∧
    ∀ a, s.transitionWord a = 0#32 ∧ s.eventWord a = 0#32

/-- The least index in `1 .. n - 1` with a property. -/
def LeastIndex (n : Nat) (p : Nat → Prop) (i : Nat) : Prop :=
  1 ≤ i ∧ i < n ∧ p i ∧ ∀ j, 1 ≤ j → j < i → ¬p j

/-- The level of channel c falls at transition i (R13). -/
def Falls (s : State) (c i : Nat) : Prop := (s.v (i - 1)).getLsbD c = true ∧ (s.v i).getLsbD c = false

/-- The level of channel c rises at transition i (R13). -/
def Rises (s : State) (c i : Nat) : Prop := (s.v (i - 1)).getLsbD c = false ∧ (s.v i).getLsbD c = true

/-- The level of channel c changes at transition i (R13). -/
def Changes (s : State) (c i : Nat) : Prop := (s.v (i - 1)).getLsbD c ≠ (s.v i).getLsbD c

/-- The SCK edge of transition i is the active one: rising in modes 0 and 2, falling in modes 1 and 3 (R160). -/
def ActiveEdge (s : State) (i : Nat) : Prop :=
  ((s.snap.spiMode.mode = 0#2 ∨ s.snap.spiMode.mode = 2#2) ∧ Rises s s.snap.spiCh.sck.toNat i) ∨
    ((s.snap.spiMode.mode = 1#2 ∨ s.snap.spiMode.mode = 3#2) ∧ Falls s s.snap.spiCh.sck.toNat i)

/-- A TIME word. -/
def at32 (t : Nat) : Word := BitVec.ofNat 32 t

/-- `i` is `sample_index_at(t)` (R126): the largest index below N whose timestamp is at or before t. -/
def IsSampleIndex (s : State) (t i : Nat) : Prop :=
  i < s.nTrans.toNat ∧ s.t i ≤ t ∧ ∀ j, i < j → j < s.nTrans.toNat → t < s.t j

/-- An accumulator after sampling a list of bits in order from 0 (R155). -/
def assembled (lsbFirst : Bool) (bs : List Bool) : BitVec 16 :=
  bs.zipIdx.foldl (fun acc b => shiftIn lsbFirst acc b.2 b.1) 0#16

/-- An idle block in the host's turn with nothing but the host's command, reads and polls to come. -/
structure ReadyForCommand (s : State) : Prop where
  inv : Inv s
  noReset : NoReset s
  onlyWatched : OnlyWatched s
  hostTurn : s.turn = .host
  idle : s.busy = false

end Sys2Proof.Statement

open Sys2Proof.Statement

/-! ## Encoding -/

/-- Decoding the encoding of a well-formed operation gives it back, for every operand (R90, R91, R92, R94, R95). -/
def Obligations.DecodeOfEncodeIsTheOperation : Prop :=
  ∀ i : Instr, i.wellFormed = true → decodeWrite (encode i) = .operation i

/-- A bus write that decodes to an operation is the encoding of it, and the operation is well formed: one meaning for
each write (R90 to R95). -/
def Obligations.DecodedWriteIsItsEncoding : Prop :=
  ∀ (b : BusWrite) (i : Instr), decodeWrite b = .operation i → encode i = b ∧ i.wellFormed = true

/-- A few words written out from the spec: the vectors E1 to E5 and offsets of the register map; and a command word is
reserved iff its RSVD field is not 0 or its OPC is 0x08 or more (R90, R92). -/
def Obligations.WordsOfTheSpecDecode : Prop :=
  decodeWrite ⟨.word, 0x010#32, 0x00000000#32⟩ = .operation .nop ∧
    decodeWrite ⟨.word, 0x010#32, 0x00000007#32⟩ = .operation .decodeUart ∧
    decodeWrite ⟨.word, 0x010#32, 0x00000008#32⟩ = .operation (.illegalCmd 0x08#8 0#24) ∧
    decodeWrite ⟨.word, 0x010#32, 0x00000105#32⟩ = .operation (.illegalCmd 0x05#8 1#24) ∧
    decodeWrite ⟨.word, 0x010#32, 0xFFFFFFFF#32⟩ = .operation (.illegalCmd 0xFF#8 0xFFFFFF#24) ∧
    decodeWrite ⟨.word, 0x068#32, 0x14#32⟩ = .operation (.pushTs 0x14#32) ∧
    decodeWrite ⟨.word, 0x090#32, 0x80#32⟩ = .operation (.uartLines1Wr 0x80#32) ∧
    ∀ w : Word, (∃ opc rsvd, decodeCmd w = .illegalCmd opc rsvd) ↔ w.toNat / 256 ≠ 0 ∨ 8 ≤ w.toNat % 256

/-! ## Steps -/

/-- A step in which the host's write is due runs exactly the operation it decodes to, or drops it; around it the step
takes the write from the host's plan (R79, R94, R72), and lets the hardware publish PROGRESS first (R222). The plan and
its delays are the model's own: assumption 11; that a PROGRESS value may be published before every step is the model's
reading of R222: assumption 3. -/
def Obligations.StepDeliversTheHostWrite : Prop :=
  ∀ (s : State) (b : BusWrite) (rest : List HostSlot),
    s.platform = [] → s.inReset = false → s.host = { delay := 0, op := .write b } :: rest →
      (∀ i, decodeWrite b = .operation i →
        step s = exec i { s.hardwarePublishes with host := rest, turn := .host }) ∧
      (∀ r, decodeWrite b = .rejected r →
        step s = .next (State.dropWrite r { s.hardwarePublishes with host := rest, turn := .host }))

/-- A step in which no outside agent acts lets the hardware publish PROGRESS (a new value and the draw counter, R222) and
then runs exactly the running command (R79, R218). The plan and its delays are the model's own: assumption 11; that a
PROGRESS value may be published before every step is the model's reading of R222: assumption 3. -/
def Obligations.StepRunsTheRunningCommand : Prop :=
  ∀ (s : State) (c : Command),
    s.platform = [] → s.inReset = false → s.seq.command = some c →
      (s.host = [] → step s = exec c.instr { s.hardwarePublishes with turn := .sequencer }) ∧
      (∀ n op rest, s.host = { delay := n + 1, op := op } :: rest →
        step s = exec c.instr
          { s.hardwarePublishes with host := { delay := n, op := op } :: rest, turn := .sequencer })

/-- While IDLE, and with no outside agent acting, the block holds all state unchanged (R255). -/
def Obligations.IdleBlockHoldsItsState : Prop :=
  ∀ s : State, s.host = [] → s.platform = [] → s.seq = .idle → step s = .next s

/-- No step of any state stops the machine: there is no trap (R237). -/
def Obligations.EveryStepGoesOn : Prop := ∀ s : State, GoesOn s

/-- The invariant holds after reset, for every legal capacity. -/
def Obligations.InvariantHoldsAtReset : Prop :=
  ∀ n e : Word, 1 ≤ n.toNat → n.toNat ≤ 2 ^ 21 → 1 ≤ e.toNat → e.toNat ≤ 2 ^ 21 → Inv (State.resetWith n e)

/-- Every step keeps the invariant: the canonical form of memory, legal register fields, the committed-store
invariants of R111, the snapshot of R217, one stop flag at most (R236) and the flags of a running command. -/
def Obligations.InvariantKeptByEveryStep : Prop :=
  ∀ s t : State, Inv s → step s = .next t → Inv t

/-- NMAX and EMAX read their parameter and no step changes them (R22, R23). -/
def Obligations.CapacitiesAreConstant : Prop :=
  (∀ s t : State, step s = .next t → t.nMax = s.nMax ∧ t.eMax = s.eMax) ∧
    (∀ n e : Word, (State.resetWith n e).nMax = n ∧ (State.resetWith n e).eMax = e) ∧
    (∀ s : State, s.busRead .word 0x004#32 = { s with readData := s.nMax } ∧
      s.busRead .word 0x008#32 = { s with readData := s.eMax })

/-! ## Reset -/

/-- Every item of R261 holds its reset value in the state after reset and after either event of the reset input (R260,
R261, R263). That an assertion resets an idle block too, and a release a block that is not in reset, is the model's
choice: assumption 16. -/
def Obligations.ResetGivesTheResetValues : Prop :=
  (∀ n e : Word, AtReset n e (State.resetWith n e)) ∧
    (∀ (s : State) (ev : ResetEvent), AtReset s.nMax s.eMax (s.resetEvent ev))

/-- Reset asserted while a command runs abandons it (R263). -/
def Obligations.ResetAbandonsTheRunningCommand : Prop :=
  ∀ (s : State) (rest : List ResetSlot),
    s.busy = true → s.platform = { delay := 0, event := .assert } :: rest →
      ∃ t, step s = .next t ∧ t.busy = false ∧ t.done = false ∧ t.irq = false ∧ AtReset s.nMax s.eMax t

/-- While reset is asserted, host accesses have no effect and reads return 0 (R260, I21). -/
def Obligations.AccessesInResetHaveNoEffect : Prop :=
  ∀ (s : State) (rest : List HostSlot),
    s.inReset = true → s.seq = .idle → s.platform = [] →
      (∀ b, s.host = { delay := 0, op := .write b } :: rest →
        step s = .next { s with host := rest, turn := .host }) ∧
      (∀ size a, s.host = { delay := 0, op := .read size a } :: rest →
        step s = .next { s with host := rest, turn := .host, readData := 0#32 })

/-! ## Acceptance and the locks -/

/-- A CMD write: dropped with CMD_OVR while BUSY = 1, else accepted, with exactly the fields of R216 changed (R216,
R217). For a reserved word the completion follows in a step of its own: assumption 7. -/
def Obligations.CommandWriteIsAcceptedOrDropped : Prop :=
  ∀ (c : Command) (s : State), s.turn = .host →
    (s.busy = true → exec c.instr s = .next { s with cmdOvr := true }) ∧
    (s.busy = false →
      exec c.instr s = .next
        { s with
          seq := .pending c
          done := false
          errCode := .ok
          cancelled := false
          evtOvf := false
          noBaudRx := false
          noBaudTx := false
          cancelReq := false
          snap := s.snapshot
          evtCount := if c = .decodeSpi ∨ c = .decodeUart then 0#32 else s.evtCount
          symCount := if c = .decodeSpi ∨ c = .decodeUart then 0#32 else s.symCount
          errCount := if c = .decodeSpi ∨ c = .decodeUart then 0#32 else s.errCount
          progress := if c = .decodeSpi ∨ c = .decodeUart then 0#7 else s.progress
          baudRx := if c = .decodeUart then 0#32 else s.baudRx
          baudTx := if c = .decodeUart then 0#32 else s.baudTx })

/-- The snapshot taken at the acceptance of any command holds every SPI channel and every used UART channel clamped to
CHANNELS - 1, and the other operands as they are (R158, R179, R217). -/
def Obligations.SnapshotClampsTheChannels : Prop :=
  ∀ s : State, 1 ≤ s.channels.toNat →
    (∀ c : Command, (s.accept c).snap = s.snapshot) ∧
    s.snapshot.spiCh.sck.toNat = min s.spiCh.sck.toNat (s.channels.toNat - 1) ∧
    s.snapshot.spiCh.miso.toNat = min s.spiCh.miso.toNat (s.channels.toNat - 1) ∧
    s.snapshot.spiCh.mosi.toNat = min s.spiCh.mosi.toNat (s.channels.toNat - 1) ∧
    s.snapshot.spiCh.cs.toNat = min s.spiCh.cs.toNat (s.channels.toNat - 1) ∧
    s.snapshot.usedLines =
      ((Snapshot.lines { s.snapshot with lines0 := s.lines0, lines1 := s.lines1 }).filter (fun l => l.2.used)).map
        (fun l => (l.1, min l.2.ch.toNat (s.channels.toNat - 1))) ∧
    s.snapshot.arg0 = s.arg0 ∧ s.snapshot.spiMode = s.spiMode ∧ s.snapshot.uartCfg = s.uartCfg ∧
    s.snapshot.cursorEn = s.cursorEn ∧ s.snapshot.cursorA = s.cursorA ∧ s.snapshot.cursorB = s.cursorB ∧
    s.snapshot.trigger = s.trigger ∧ s.snapshot.trigValid = s.trigValid

/-- A write to a locked register is dropped, sets WR_IGN and changes nothing else (R49). -/
def Obligations.LockedWritesAreDropped : Prop :=
  ∀ (s : State) (w : Word),
    (s.busy = true → ∀ i ∈ busyLockedWrites w, exec i s = .next { s with wrIgn := true }) ∧
    (s.busy = true ∨ s.storeValid = true →
      ∀ i ∈ storeLockedWrites w, exec i s = .next { s with wrIgn := true })

/-! ## Register writes -/

/-- Where each flag stands in STATUS, whose bits 31:13 read 0; a write to STATUS clears exactly the W1C bits written as 1
(bits 1, 8, 9 and 10) and changes nothing else (R25, R82). -/
def Obligations.StatusLayoutAndClear : Prop :=
  ∀ s : State,
    (s.statusWord.getLsbD 0 = s.busy ∧ s.statusWord.getLsbD 1 = s.done ∧
      (s.statusWord.getLsbD 2 = true ↔ s.errCode ≠ .ok) ∧ s.statusWord.getLsbD 3 = s.storeValid ∧
      s.statusWord.getLsbD 4 = s.cancelled ∧ s.statusWord.getLsbD 5 = s.evtOvf ∧
      s.statusWord.getLsbD 6 = s.noBaudRx ∧ s.statusWord.getLsbD 7 = s.noBaudTx ∧
      s.statusWord.getLsbD 8 = s.cmdOvr ∧ s.statusWord.getLsbD 9 = s.wrIgn ∧ s.statusWord.getLsbD 10 = s.busErr ∧
      s.statusWord.getLsbD 11 = s.loadOvf ∧ s.statusWord.getLsbD 12 = s.loadMixed ∧
      ∀ i, 13 ≤ i → s.statusWord.getLsbD i = false) ∧
    s.busRead .word 0x014#32 = { s with readData := s.statusWord } ∧
    ∀ w : Word, ∃ t,
      exec (.statusW1c w) s = .next t ∧ t.statusWord = s.statusWord &&& ~~~(w &&& 0x00000702#32) ∧
        t = { s with done := t.done, cmdOvr := t.cmdOvr, wrIgn := t.wrIgn, busErr := t.busErr }

/-- A write to CTRL stores IRQ_EN; a 1 in CANCEL sets CANCEL_REQ only while a decode runs; CTRL reads them back
(R26). -/
def Obligations.CtrlWriteSetsEnableAndRequest : Prop :=
  ∀ (s : State) (w : Word),
    (w.getLsbD 1 = true → s.seq.command = some .decodeSpi ∨ s.seq.command = some .decodeUart →
      exec (.ctrlWr w) s = .next { s with irqEn := w.getLsbD 0, cancelReq := true }) ∧
    (w.getLsbD 1 = false ∨ (s.seq.command ≠ some .decodeSpi ∧ s.seq.command ≠ some .decodeUart) →
      exec (.ctrlWr w) s = .next { s with irqEn := w.getLsbD 0 }) ∧
    s.busRead .word 0x018#32 =
      { s with readData := at32 ((if s.irqEn then 1 else 0) + (if s.cancelReq then 2 else 0)) }

/-- The registers that store the whole written word: ARG0, ST_ABSLEN, ST_TRIGGER, ST_RATE, ST_ENMASK and PUSH_VALUE,
when no lock holds; a host read returns what is stored, locked or not, and changes nothing else (R28, R35, R36, R37, R39,
R42, R52, R76). -/
def Obligations.WholeWordRegistersStoreTheWord : Prop :=
  (∀ (s : State) (w : Word), s.busy = false →
    exec (.arg0Wr w) s = .next { s with arg0 := w } ∧
    (s.storeValid = false →
      exec (.stAbslenWr w) s = .next { s with absLen := w } ∧
      exec (.stTriggerWr w) s = .next { s with trigger := w } ∧
      exec (.stRateWr w) s = .next { s with rate := w } ∧
      exec (.stEnmaskWr w) s = .next { s with enMask := w } ∧
      exec (.pushValueWr w) s = .next { s with pushValue := w })) ∧
  ∀ s : State,
    s.busRead .word 0x020#32 = { s with readData := s.arg0 } ∧
    s.busRead .word 0x044#32 = { s with readData := s.absLen } ∧
    s.busRead .word 0x048#32 = { s with readData := s.trigger } ∧
    s.busRead .word 0x04C#32 = { s with readData := s.rate } ∧
    s.busRead .word 0x054#32 = { s with readData := s.enMask } ∧
    s.busRead .word 0x064#32 = { s with readData := s.pushValue }

/-- A write to ST_CFG stores CHANNELS clamped to 1 .. 32 and the two availability bits, and reserved bits read 0; while
the register is store-locked the write is dropped with WR_IGN; it reads 0x20 at reset, and in every state what is stored
(R38, R52). -/
def Obligations.StCfgWriteClampsChannels : Prop :=
  (∀ n e : Word, ((State.resetWith n e).busRead .word 0x050#32).readData = 0x00000020#32) ∧
  (∀ (s : State) (w : Word), s.busy = true ∨ s.storeValid = true →
    exec (.stCfgWr w) s = .next { s with wrIgn := true }) ∧
  (∀ s : State,
    let fields := s.channels.toNat + (if s.trigValid then 2 ^ 8 else 0) + (if s.rateValid then 2 ^ 9 else 0)
    s.busRead .word 0x050#32 = { s with readData := at32 fields }) ∧
  ∀ (s : State) (w : Word), s.busy = false → s.storeValid = false → ∃ t,
    exec (.stCfgWr w) s = .next t ∧
      t = { s with channels := t.channels, trigValid := w.getLsbD 8, rateValid := w.getLsbD 9 } ∧
      t.channels.toNat = (if w.toNat % 64 = 0 then 1 else min 32 (w.toNat % 64)) ∧
      (t.busRead .word 0x050#32).readData = (w &&& 0x00000300#32) ||| BitVec.ofNat 32 t.channels.toNat

/-- A cursor write stores `min(v, ABS_LEN - 1)` when a store is committed, else v unchanged; while BUSY it is dropped with
WR_IGN; both cursors read what is stored, 0 at reset (R41). The clamp at a commit: StoreCommitChecksInOrder. -/
def Obligations.CursorWritesAreClamped : Prop :=
  (∀ n e : Word, (State.resetWith n e).cursorA = 0#32 ∧ (State.resetWith n e).cursorB = 0#32) ∧
  (∀ s : State, s.busRead .word 0x05C#32 = { s with readData := s.cursorA } ∧
    s.busRead .word 0x060#32 = { s with readData := s.cursorB }) ∧
  (∀ (s : State) (w : Word), s.busy = true →
    exec (.cursorAWr w) s = .next { s with wrIgn := true } ∧ exec (.cursorBWr w) s = .next { s with wrIgn := true }) ∧
  ∀ (s : State) (w : Word), s.busy = false →
    (s.storeValid = true →
      exec (.cursorAWr w) s = .next { s with cursorA := BitVec.ofNat 32 (min w.toNat (s.absLen.toNat - 1)) } ∧
      exec (.cursorBWr w) s = .next { s with cursorB := BitVec.ofNat 32 (min w.toNat (s.absLen.toNat - 1)) }) ∧
    (s.storeValid = false →
      exec (.cursorAWr w) s = .next { s with cursorA := w } ∧
      exec (.cursorBWr w) s = .next { s with cursorB := w })

/-- CURSOR_CTL, SPI_CH, UART_LINES0 and UART_LINES1 store their fields, each from its own bits: a host read returns the
written word with the reserved bits 0, and nothing else changes (R40, R44, R54). The bytes of both UART_LINES registers
are bound to their roles in pass order: RxD, TxD, CTS, RTS, then DTR, DSR, DCD, RI (R54, R180). In every state a host
read of CURSOR_CTL and SPI_CH returns the fields at their bits, and one of a UART_LINES register its four bytes, USED at
bit 7 of each, and changes nothing else (R52, R76). -/
def Obligations.FieldRegistersStoreTheirFields : Prop :=
  (∀ s : State,
    let byte := fun (b : LineBinding) => (if b.used then 2 ^ 7 else 0) + b.ch.toNat
    let bank := fun (k : LineBank) =>
      at32 (byte k.byte0 + 2 ^ 8 * byte k.byte1 + 2 ^ 16 * byte k.byte2 + 2 ^ 24 * byte k.byte3)
    let spiCh :=
      s.spiCh.sck.toNat + 2 ^ 8 * s.spiCh.miso.toNat + 2 ^ 16 * s.spiCh.mosi.toNat + 2 ^ 24 * s.spiCh.cs.toNat
    s.busRead .word 0x058#32 = { s with readData := at32 (if s.cursorEn then 1 else 0) } ∧
    s.busRead .word 0x080#32 = { s with readData := at32 spiCh } ∧
    s.busRead .word 0x08C#32 = { s with readData := bank s.lines0 } ∧
    s.busRead .word 0x090#32 = { s with readData := bank s.lines1 }) ∧
  ∀ (s : State) (w : Word), s.busy = false →
    (∃ t, exec (.cursorCtlWr w) s = .next t ∧ t = { s with cursorEn := w.getLsbD 0 } ∧
      (t.busRead .word 0x058#32).readData = w &&& 0x00000001#32) ∧
    (∃ t, exec (.spiChWr w) s = .next t ∧ t = { s with spiCh := t.spiCh } ∧
      t.spiCh.sck.toNat = w.toNat % 2 ^ 5 ∧ t.spiCh.miso.toNat = w.toNat / 2 ^ 8 % 2 ^ 5 ∧
      t.spiCh.mosi.toNat = w.toNat / 2 ^ 16 % 2 ^ 5 ∧ t.spiCh.cs.toNat = w.toNat / 2 ^ 24 % 2 ^ 5 ∧
      (t.busRead .word 0x080#32).readData = w &&& 0x1F1F1F1F#32) ∧
    (∃ t, exec (.uartLines0Wr w) s = .next t ∧ t = { s with lines0 := t.lines0 } ∧
      (t.busRead .word 0x08C#32).readData = w &&& 0x9F9F9F9F#32) ∧
    (∃ t, exec (.uartLines1Wr w) s = .next t ∧ t = { s with lines1 := t.lines1 } ∧
      (t.busRead .word 0x090#32).readData = w &&& 0x9F9F9F9F#32) ∧
    ∀ (w1 : Word) (t u : State) (n : Snapshot),
      exec (.uartLines0Wr w) s = .next t → exec (.uartLines1Wr w1) t = .next u →
      n.lines0 = u.lines0 → n.lines1 = u.lines1 →
        n.lines.map (fun l => (l.1, l.2.used, l.2.ch.toNat)) =
          [(.rxd, w.getLsbD 7, w.toNat % 2 ^ 5), (.txd, w.getLsbD 15, w.toNat / 2 ^ 8 % 2 ^ 5),
            (.cts, w.getLsbD 23, w.toNat / 2 ^ 16 % 2 ^ 5), (.rts, w.getLsbD 31, w.toNat / 2 ^ 24 % 2 ^ 5),
            (.dtr, w1.getLsbD 7, w1.toNat % 2 ^ 5), (.dsr, w1.getLsbD 15, w1.toNat / 2 ^ 8 % 2 ^ 5),
            (.dcd, w1.getLsbD 23, w1.toNat / 2 ^ 16 % 2 ^ 5), (.ri, w1.getLsbD 31, w1.toNat / 2 ^ 24 % 2 ^ 5)]

/-- SPI_MODE stores MODE and ORDER as written and BITS clamped to 4 .. 16; while BUSY the write is dropped with WR_IGN; it
reads 0x800 at reset, and in every state the fields at their bits (R45, R52). -/
def Obligations.SpiModeWriteClampsBits : Prop :=
  (∀ n e : Word, ((State.resetWith n e).busRead .word 0x084#32).readData = 0x00000800#32) ∧
  (∀ (s : State) (w : Word), s.busy = true → exec (.spiModeWr w) s = .next { s with wrIgn := true }) ∧
  (∀ s : State,
    let fields :=
      s.spiMode.mode.toNat + 2 ^ 8 * s.spiMode.bits.toNat + (if s.spiMode.lsbFirst then 2 ^ 16 else 0)
    s.busRead .word 0x084#32 = { s with readData := at32 fields }) ∧
  ∀ (s : State) (w : Word), s.busy = false → ∃ t,
    exec (.spiModeWr w) s = .next t ∧ t = { s with spiMode := t.spiMode } ∧
      t.spiMode.mode.toNat = w.toNat % 4 ∧ t.spiMode.bits.toNat = min 16 (max 4 (w.toNat / 2 ^ 8 % 2 ^ 5)) ∧
      t.spiMode.lsbFirst = w.getLsbD 16 ∧
      (t.busRead .word 0x084#32).readData =
        (w &&& 0x00010003#32) ||| BitVec.ofNat 32 (256 * min 16 (max 4 (w.toNat / 256 % 32)))

/-- UART_CFG stores DATABITS clamped to 5 .. 9 and INVERT as written; the reserved value 3 of PARITY and of STOP leaves
that field unchanged, field by field; while BUSY the write is dropped with WR_IGN; it reads 0x800 at reset, and in every
state the fields at their bits (R53, R52). -/
def Obligations.UartCfgWriteKeepsReservedFields : Prop :=
  (∀ n e : Word, ((State.resetWith n e).busRead .word 0x088#32).readData = 0x00000800#32) ∧
  (∀ (s : State) (w : Word), s.busy = true → exec (.uartCfgWr w) s = .next { s with wrIgn := true }) ∧
  (∀ s : State,
    let parity := if s.uartCfg.parity = .none then 0 else if s.uartCfg.parity = .odd then 1 else 2
    let stop := if s.uartCfg.stop = .one then 0 else if s.uartCfg.stop = .oneAndHalf then 1 else 2
    let fields :=
      parity + 2 ^ 8 * s.uartCfg.dataBits.toNat + 2 ^ 16 * stop + (if s.uartCfg.invert then 2 ^ 24 else 0)
    s.busRead .word 0x088#32 = { s with readData := at32 fields }) ∧
  ∀ (s : State) (w : Word), s.busy = false → ∃ t,
    exec (.uartCfgWr w) s = .next t ∧ t = { s with uartCfg := t.uartCfg } ∧
      t.uartCfg.parity =
        (if w.toNat % 4 = 0 then .none else if w.toNat % 4 = 1 then .odd else if w.toNat % 4 = 2 then .even
          else s.uartCfg.parity) ∧
      t.uartCfg.dataBits.toNat = min 9 (max 5 (w.toNat / 2 ^ 8 % 16)) ∧
      t.uartCfg.stop =
        (if w.toNat / 2 ^ 16 % 4 = 0 then .one else if w.toNat / 2 ^ 16 % 4 = 1 then .oneAndHalf
          else if w.toNat / 2 ^ 16 % 4 = 2 then .two else s.uartCfg.stop) ∧
      t.uartCfg.invert = w.getLsbD 24 ∧
      t.uartCfg.toWord.toNat % 4 = (if w.toNat % 4 = 3 then s.uartCfg.toWord.toNat % 4 else w.toNat % 4) ∧
      t.uartCfg.toWord.toNat / 2 ^ 8 % 16 = min 9 (max 5 (w.toNat / 2 ^ 8 % 16)) ∧
      t.uartCfg.toWord.toNat / 2 ^ 16 % 4 =
        (if w.toNat / 2 ^ 16 % 4 = 3 then s.uartCfg.toWord.toNat / 2 ^ 16 % 4 else w.toNat / 2 ^ 16 % 4) ∧
      t.uartCfg.toWord.toNat / 2 ^ 24 % 2 = w.toNat / 2 ^ 24 % 2 ∧
      t.uartCfg.toWord &&& ~~~0x01030F03#32 = 0#32 ∧
      (t.busRead .word 0x088#32).readData = t.uartCfg.toWord

/-! ## Loading -/

/-- PUSH_TS (R117): dropped with WR_IGN while a lock holds; else silent after an overflow, LOAD_MIXED in a raw load,
LOAD_OVF when full, else entry N is (PUSH_VALUE, t) and every byte outside it is as before. -/
def Obligations.PushAppendsATransition : Prop :=
  (∀ w : Word, decodeWrite ⟨.word, 0x068#32, w⟩ = .operation (.pushTs w)) ∧
  (∀ (s : State) (w : Word), s.busy = true ∨ s.storeValid = true →
    exec (.pushTs w) s = .next { s with wrIgn := true }) ∧
  ∀ (s : State) (w : Word), s.busy = false → s.storeValid = false → s.mem.wf = true →
    (s.loadOvf = true → exec (.pushTs w) s = .next s) ∧
    (s.loadOvf = false → s.loadMode = .raw → exec (.pushTs w) s = .next { s with loadMixed := true }) ∧
    (s.loadOvf = false → s.loadMode ≠ .raw → s.nTrans = s.nMax →
      exec (.pushTs w) s = .next { s with loadMode := .push, loadOvf := true }) ∧
    (s.loadOvf = false → s.loadMode ≠ .raw → s.nTrans ≠ s.nMax → ∃ t,
      exec (.pushTs w) s = .next t ∧
        t = { s with mem := t.mem, nTrans := s.nTrans + 1#32, loadMode := .push } ∧
        t.v s.nTrans.toNat = s.pushValue ∧ t.t s.nTrans.toNat = w.toNat ∧
        ∀ a, a < transAddr s.nTrans.toNat ∨ transAddr s.nTrans.toNat + 8 ≤ a →
          t.mem.readByte a = s.mem.readByte a)

/-- RAW_SAMPLE (R119): dropped with WR_IGN while a lock holds; else a sample equal to the last value only advances
RAW_COUNT, the first sample and a differing one become entry N, stamped with RAW_COUNT, and the other ways in which a
sample is dropped. -/
def Obligations.RawSampleCompresses : Prop :=
  (∀ w : Word, decodeWrite ⟨.word, 0x06C#32, w⟩ = .operation (.rawSample w)) ∧
  (∀ (s : State) (w : Word), s.busy = true ∨ s.storeValid = true →
    exec (.rawSample w) s = .next { s with wrIgn := true }) ∧
  ∀ (s : State) (w : Word), s.busy = false → s.storeValid = false → s.mem.wf = true →
    (s.loadOvf = true → exec (.rawSample w) s = .next s) ∧
    (s.loadOvf = false → s.loadMode = .push → exec (.rawSample w) s = .next { s with loadMixed := true }) ∧
    (s.loadOvf = false → s.loadMode ≠ .push → s.rawCount = 0xFFFFFFFF#32 →
      exec (.rawSample w) s = .next { s with loadMode := .raw, loadOvf := true }) ∧
    (s.loadOvf = false → s.loadMode ≠ .push → s.rawCount ≠ 0xFFFFFFFF#32 →
      (s.nTrans ≠ 0#32 → w = s.v (s.nTrans.toNat - 1) →
        exec (.rawSample w) s = .next { s with loadMode := .raw, rawCount := s.rawCount + 1#32 }) ∧
      (s.nTrans = 0#32 ∨ w ≠ s.v (s.nTrans.toNat - 1) → s.nTrans = s.nMax →
        exec (.rawSample w) s = .next { s with loadMode := .raw, loadOvf := true }) ∧
      (s.nTrans = 0#32 ∨ w ≠ s.v (s.nTrans.toNat - 1) → s.nTrans ≠ s.nMax → ∃ t,
        exec (.rawSample w) s = .next t ∧
          t = { s with
                mem := t.mem
                nTrans := s.nTrans + 1#32
                loadMode := .raw
                rawCount := s.rawCount + 1#32 } ∧
          t.v s.nTrans.toNat = w ∧ t.t s.nTrans.toNat = s.rawCount.toNat ∧
          ∀ a, a < transAddr s.nTrans.toNat ∨ transAddr s.nTrans.toNat + 8 ≤ a →
            t.mem.readByte a = s.mem.readByte a))

/-! ## Commands without iterations -/

/-- NOP completes with OK and a reserved command word with ILLEGAL_CMD; neither changes anything but the completion
fields (R224, R92, R233). That a reserved word completes in a step of its own: assumption 7. -/
def Obligations.NopAndReservedWordComplete : Prop :=
  ∀ (s : State) (opc : BitVec 8) (rsvd : BitVec 24), s.turn = .sequencer →
    exec .nop s = .next (completed s .ok) ∧ exec (.illegalCmd opc rsvd) s = .next (completed s .illegalCmd)

/-- STORE_CLEAR empties the store, clears the load flags and the counts, completes with OK whether or not a store is
committed, and keeps everything else (R115). -/
def Obligations.StoreClearEmptiesTheStore : Prop :=
  decodeCmd 0x00000001#32 = .storeClear ∧
  ∀ s : State, s.turn = .sequencer →
    exec .storeClear s = .next
      { completed s .ok with
        storeValid := false
        nTrans := 0#32
        rawCount := 0#32
        loadMode := .none
        loadOvf := false
        loadMixed := false
        evtCount := 0#32
        symCount := 0#32
        errCount := 0#32 }

/-- STORE_COMMIT runs its checks in order, and the first that fails decides the code; on success it fixes ABS_LEN, sets
STORE_VALID and clamps both cursors; on an error it changes only the completion fields (R121, R122, R124, R235). -/
def Obligations.StoreCommitChecksInOrder : Prop :=
  decodeCmd 0x00000002#32 = .storeCommit ∧
  ∀ s : State, s.turn = .sequencer →
    let n := s.nTrans.toNat
    let len := if s.loadMode = .raw then s.rawCount else s.absLen
    let rising := ∀ i < n, 1 ≤ i → s.t (i - 1) < s.t i
    let differs := ∀ i < n, 1 ≤ i → s.v (i - 1) ≠ s.v i
    let open1 := s.storeValid = false ∧ s.loadOvf = false
    let open2 := open1 ∧ s.loadMixed = false
    let loaded := open2 ∧ n ≠ 0
    (s.storeValid = true → exec .storeCommit s = .next (completed s .ok)) ∧
    (s.storeValid = false → s.loadOvf = true → exec .storeCommit s = .next (completed s .fmtCapacity)) ∧
    (open1 → s.loadMixed = true → exec .storeCommit s = .next (completed s .fmtMixed)) ∧
    (open2 → n = 0 → exec .storeCommit s = .next (completed s .fmtEmpty)) ∧
    (loaded → s.t 0 ≠ 0 → exec .storeCommit s = .next (completed s .fmtT0)) ∧
    (loaded → s.t 0 = 0 → ¬rising → exec .storeCommit s = .next (completed s .fmtOrder)) ∧
    (loaded → s.t 0 = 0 → rising → ¬differs → exec .storeCommit s = .next (completed s .fmtDup)) ∧
    (loaded → s.t 0 = 0 → rising → differs → len.toNat = 0 ∨ len.toNat < s.t (n - 1) →
      exec .storeCommit s = .next (completed s .fmtAbsLen)) ∧
    (loaded → s.t 0 = 0 → rising → differs → len.toNat ≠ 0 → s.t (n - 1) ≤ len.toNat →
      exec .storeCommit s = .next
        { completed s .ok with
          absLen := len
          storeValid := true
          cursorA := BitVec.ofNat 32 (min s.cursorA.toNat (len.toNat - 1))
          cursorB := BitVec.ofNat 32 (min s.cursorB.toNat (len.toNat - 1)) })

/-- A raw load that lost no sample always commits, with ABS_LEN = RAW_COUNT (R121 corner case, R122). -/
def Obligations.RawLoadAlwaysCommits : Prop :=
  ∀ s : State, Inv s → s.turn = .sequencer → s.storeValid = false → s.loadMode = .raw → s.loadOvf = false →
    s.loadMixed = false → ∃ t,
      exec .storeCommit s = .next t ∧ t.storeValid = true ∧ t.errCode = .ok ∧ t.absLen = s.rawCount ∧ StoreInv t

/-- Both queries report NO_STORE, then RANGE; else they find the index of the last transition at or before the snapshot's
ARG0: QUERY_INDEX writes it to RESULT0, QUERY_VALUE writes the value there to RESULT0 and the index to RESULT1 (R126,
R127, R128, R130, R235). The value function of the decoders is the value at that index too (R127). -/
def Obligations.QueriesAnswer : Prop :=
  decodeCmd 0x00000003#32 = .queryIndex ∧ decodeCmd 0x00000004#32 = .queryValue ∧
  (∀ (s : State) (t i : Nat), StoreInv s → t < s.absLen.toNat → IsSampleIndex s t i → s.valueAt t = s.v i) ∧
  ∀ s : State, s.turn = .sequencer →
    (s.storeValid = false →
      exec .queryIndex s = .next (completed s .noStore) ∧ exec .queryValue s = .next (completed s .noStore)) ∧
    (s.storeValid = true → s.absLen.toNat ≤ s.snap.arg0.toNat →
      exec .queryIndex s = .next (completed s .range) ∧ exec .queryValue s = .next (completed s .range)) ∧
    (s.storeValid = true → s.snap.arg0.toNat < s.absLen.toNat → StoreInv s →
      ∃ i, IsSampleIndex s s.snap.arg0.toNat i ∧
        exec .queryIndex s = .next { completed s .ok with result0 := BitVec.ofNat 32 i } ∧
        exec .queryValue s = .next { completed s .ok with result0 := s.v i, result1 := BitVec.ofNat 32 i })

/-! ## The estimator -/

/-- ESTIMATE_BAUD writes best, min and max of the durations of the snapshot's mask, or reports NO_STORE (R146). -/
def Obligations.EstimateBaudAnswers : Prop :=
  decodeCmd 0x00000005#32 = .estimateBaud ∧
  ∀ s : State, s.turn = .sequencer →
    (s.storeValid = false → exec .estimateBaud s = .next (completed s .noStore)) ∧
    (s.storeValid = true →
      exec .estimateBaud s = .next
        { completed s .ok with
          result0 := BitVec.ofNat 32 (estimateOf (s.durations s.snap.arg0)).best
          result1 := BitVec.ofNat 32 (estimateOf (s.durations s.snap.arg0)).least
          result2 := BitVec.ofNat 32 (estimateOf (s.durations s.snap.arg0)).most })

/-- The durations are the gaps between consecutive edges of the masked line below ABS_LEN, the first measured from
time 0, and none is 0 (R140, R141). NV counts the transitions whose timestamp is below ABS_LEN (R14). -/
def Obligations.DurationsAreTheGapsBetweenEdges : Prop :=
  ∀ (s : State) (mask : Word), StoreInv s →
    (∀ i, i < s.nv ↔ i < s.nTrans.toNat ∧ s.t i < s.absLen.toNat) ∧
    ∃ es : List Nat,
    es.Pairwise (· < ·) ∧
      (∀ i, i ∈ es ↔ 1 ≤ i ∧ i < s.nv ∧ s.v i &&& mask ≠ s.v (i - 1) &&& mask) ∧
      (s.durations mask).length = es.length ∧
      (∀ k i, es[k]? = some i →
        (s.durations mask)[k]? = some (s.t i - (if k = 0 then 0 else s.t (es.getD (k - 1) 0)))) ∧
      ∀ d ∈ s.durations mask, 1 ≤ d

/-- Best is the duration with the highest count, the earliest first occurrence on ties; min and max are the extremes;
all are 0 without a duration (R143, R144). -/
def Obligations.EstimateIsModeMinAndMax : Prop :=
  estimateOf [] = { best := 0, least := 0, most := 0 } ∧
    ∀ ds : List Nat, ds ≠ [] →
      (estimateOf ds).best ∈ ds ∧ (estimateOf ds).least ∈ ds ∧ (estimateOf ds).most ∈ ds ∧
      ∀ d ∈ ds,
        ds.count d ≤ ds.count (estimateOf ds).best ∧
        (ds.count d = ds.count (estimateOf ds).best → ds.idxOf (estimateOf ds).best ≤ ds.idxOf d) ∧
        (estimateOf ds).least ≤ d ∧ d ≤ (estimateOf ds).most

/-! ## SPI -/

/-- The SPI region: the cursors' indices, else from the first falling /CS edge, else from the clamped trigger, else
none; it ends at NV at most (R132, R156, R157). -/
def Obligations.SpiRegionFollowsTheBound : Prop :=
  ∀ s : State, StoreInv s → s.snap.cursorB.toNat ≤ s.absLen.toNat - 1 →
    (s.snap.cursorEn = true → ∀ a b, IsSampleIndex s s.snap.cursorA.toNat a → IsSampleIndex s s.snap.cursorB.toNat b →
      s.spiRegion = some { start := a, stop := b + 1 }) ∧
    (s.snap.cursorEn = false → ∀ i, LeastIndex s.nv (Falls s s.snap.spiCh.cs.toNat) i →
      s.spiRegion = some { start := i, stop := s.nv }) ∧
    (s.snap.cursorEn = false → (∀ i, 1 ≤ i → i < s.nv → ¬Falls s s.snap.spiCh.cs.toNat i) →
      (s.snap.trigValid = true → ∀ a, IsSampleIndex s (min s.snap.trigger.toNat (s.absLen.toNat - 1)) a →
        s.spiRegion = some { start := a, stop := s.nv }) ∧
      (s.snap.trigValid = false → s.spiRegion = none ∧
        ∀ c, s.turn = .sequencer → s.seq = .pending c → s.storeValid = true →
          exec .decodeSpi s = .next (completed s .noStart))) ∧
    ∀ r, s.spiRegion = some r → r.stop ≤ s.nv

/-- The SPI loop body. Transition 0 is skipped: the scan only goes on, and nothing is emitted. For a transition i >= 1 the
/CS event comes first, then on an active edge the levels at the edge are sampled, and a completed word emits MOSI then
MISO (R155, R160, R161, R163, R164, R165, R166). -/
def Obligations.SpiLoopBodySamplesTheEdge : Prop :=
  (∀ (s : State) (scan : SpiScan), scan.next = 0 → s.spiIterate scan = ({ scan with next := 1 }, [])) ∧
  ∀ (s : State) (scan : SpiScan), 1 ≤ scan.next →
    let i := scan.next
    let ch := s.snap.spiCh
    let bitO := (s.v i).getLsbD ch.mosi.toNat
    let bitI := (s.v i).getLsbD ch.miso.toNat
    let accO := shiftIn s.snap.spiMode.lsbFirst scan.accMosi scan.count bitO
    let accI := shiftIn s.snap.spiMode.lsbFirst scan.accMiso scan.count bitI
    let scan' := (s.spiIterate scan).1
    ∃ cs : List Event,
      (Falls s ch.cs.toNat i → cs = [.line (at32 (s.t i)) .cs .csLow]) ∧
      (Rises s ch.cs.toNat i → cs = [.line (at32 (s.t i)) .cs .csHigh]) ∧
      (¬Changes s ch.cs.toNat i → cs = []) ∧
      scan'.next = i + 1 ∧ scan'.stop = scan.stop ∧
      (¬ActiveEdge s i → scan' = { scan with next := i + 1 } ∧ (s.spiIterate scan).2 = cs) ∧
      (ActiveEdge s i → scan.count + 1 ≠ s.snap.spiMode.bits.toNat →
        scan' = { scan with next := i + 1, accMosi := accO, accMiso := accI, count := scan.count + 1 } ∧
        (s.spiIterate scan).2 = cs) ∧
      (ActiveEdge s i → scan.count + 1 = s.snap.spiMode.bits.toNat →
        scan' = { scan with next := i + 1, accMosi := 0#16, accMiso := 0#16, count := 0 } ∧
        (s.spiIterate scan).2 = cs ++ [.data (at32 (s.t i)) .mosi accO, .data (at32 (s.t i)) .miso accI])

/-- MSB-first the first of n sampled bits ends as bit n - 1, LSB-first as bit 0, and no bit above is set (R162). -/
def Obligations.SampledBitsEndInTheirPlaces : Prop :=
  ∀ bs : List Bool, bs.length ≤ 16 → ∀ k, k < 16 →
    (assembled true bs).getLsbD k = bs.getD k false ∧
    (assembled false bs).getLsbD k = (decide (k < bs.length) && bs.getD (bs.length - 1 - k) false)

/-- A DECODE_SPI during which the host only reads and polls (R105), from the host's write to its completion: the event
memory holds the output of the one pass over the region, in emission order and cut at E_MAX with EVT_OVF, with its counts
(R155, R172, R173, R218, R221, R222, R233). Without a read or poll it takes one step for each transition of the region at
most, and one more. -/
def Obligations.SpiDecodeWritesItsWholeOutput : Prop :=
  ∀ (s : State) (r : SpiRegion), ReadyForCommand s → s.storeValid = true →
    (s.accept .decodeSpi).spiRegion = some r →
    let out := spiOutput (s.accept .decodeSpi) r
    ∃ u k t, exec .decodeSpi s = .next u ∧ Reaches k u t ∧
      t.busy = false ∧ t.done = true ∧ t.errCode = .ok ∧ t.cancelled = false ∧
      t.evtOvf = decide (s.eMax.toNat < out.length) ∧ t.records = taken s.eMax.toNat out ∧
      t.symCount.toNat = (taken s.eMax.toNat out).countP (fun q => !infoIsLine q.2) ∧ t.errCount = 0#32 ∧
      (t.evtOvf = false → t.progress = 100#7) ∧
      t = { decoded s t with noBaudRx := false, noBaudTx := false } ∧
      (s.host = [] → k ≤ r.stop - r.start + 1 ∧ t.host = [] ∧ t.readData = s.readData ∧ t.busErr = s.busErr) ∧
      ∀ a, a < eventAddr 0 ∨ eventAddr t.evtCount.toNat ≤ a → t.mem.readByte a = s.mem.readByte a

/-- SPI output is in non-decreasing TIME order without a sort, and what the first iterations emit is a first part of
what more iterations emit (R169). -/
def Obligations.SpiOutputIsTimeOrdered : Prop :=
  ∀ s : State, StoreInv s →
    (∀ r : SpiRegion, r.stop ≤ s.nTrans.toNat → TimeOrdered ((spiOutput s r).map Event.record)) ∧
    ∀ (scan : SpiScan) (n m : Nat), spiEvents s n scan <+: spiEvents s (n + m) scan

/-- The last steps of DECODE_SPI: a poll that sees the cancel request, that of the very first iteration too, keeps the
records and stops the scan; the completion step writes the counts, and 100 to PROGRESS only without a stop (R168, R173,
R219, R233). That the poll's cancel is a step of its own, and that the first iteration happens in the step that starts
the rule, is the model's reading of R218 and R219: assumption 14. -/
def Obligations.SpiCancelAndCompletionSteps : Prop :=
  ∀ s : State, s.turn = .sequencer →
    (∀ scan, SpiScanAt s scan → scan.next < scan.stop → s.cancelReq = true →
      exec .decodeSpi s = .next { s with cancelled := true, seq := .spiClosing }) ∧
    (s.seq = .spiClosing ∨ (∃ scan, SpiScanAt s scan ∧ scan.stop ≤ scan.next) →
      exec .decodeSpi s = .next
        { completed s .ok with
          symCount := BitVec.ofNat 32 (s.records.countP (fun q => !infoIsLine q.2))
          errCount := BitVec.ofNat 32 (s.records.countP (fun q => infoIsError q.2))
          progress := if s.cancelled = true ∨ s.evtOvf = true then s.progress else 100#7 })

/-- A decode without a committed store completes with NO_STORE, and an SPI decode without a start point with NO_START,
before any event (R156, R175, R234, R235). -/
def Obligations.DecodesReportTheirErrors : Prop :=
  ∀ (s : State) (c : Command), s.turn = .sequencer → s.seq = .pending c →
    (s.storeValid = false →
      exec .decodeSpi s = .next (completed s .noStore) ∧ exec .decodeUart s = .next (completed s .noStore)) ∧
    (s.storeValid = true → s.snap.cursorEn = false → s.snap.trigValid = false →
      (∀ i, 1 ≤ i → i < s.nv → ¬Falls s s.snap.spiCh.cs.toNat i) →
      exec .decodeSpi s = .next (completed s .noStart))

/-! ## UART -/

/-- The UART region: the cursors, else from 10 samples before the clamped trigger, else from the first edge on a
configured line, else the whole capture (R176, R177, R178). -/
def Obligations.UartRegionFollowsTheBound : Prop :=
  ∀ s : State, StoreInv s →
    (s.snap.cursorEn = true → s.uartRegion = { t0 := s.snap.cursorA.toNat, t1 := s.snap.cursorB.toNat + 1 }) ∧
    (s.snap.cursorEn = false → s.snap.trigValid = true →
      s.uartRegion = { t0 := min s.snap.trigger.toNat (s.absLen.toNat - 1) - 10, t1 := s.absLen.toNat }) ∧
    (s.snap.cursorEn = false → s.snap.trigValid = false →
      (∀ i, LeastIndex s.nv (fun j => ∃ l ∈ s.snap.usedLines, Changes s l.2 j) i →
        s.uartRegion = { t0 := s.t i, t1 := s.absLen.toNat }) ∧
      ((∀ i, 1 ≤ i → i < s.nv → ∀ l ∈ s.snap.usedLines, ¬Changes s l.2 i) →
        s.uartRegion = { t0 := 0, t1 := s.absLen.toNat }))

/-- One iteration of a data-line loop: the span condition in half bits, the next qualifying edge, no sample at or past
ABS_LEN, START_ERR and the next edge, or the frame and the sample after its last one (R181, R182, R184, R185, R186,
R192, R194). -/
def Obligations.DataLineIterationFollowsTheLoop : Prop :=
  ∀ (s : State) (role : Role) (ch bd pos t1 : Nat),
    let cfg := s.snap.uartCfg
    let start := fun i => pos ≤ s.t i ∧ s.t i < t1 ∧ Changes s ch i ∧ (s.v i).getLsbD ch = cfg.invert
    let level := fun t => (s.valueAt t).getLsbD ch
    let p := if cfg.parity = .none then 0 else 1
    let s2 := if cfg.stop = .one then 2 else if cfg.stop = .oneAndHalf then 3 else 4
    (2 * t1 < 2 * pos + (2 * cfg.dataBits.toNat + 2 * p + s2) * bd →
      s.frameIterate role ch bd pos t1 = none) ∧
    (2 * pos + (2 * cfg.dataBits.toNat + 2 * p + s2) * bd ≤ 2 * t1 →
      ((∀ i, 1 ≤ i → i < s.nv → ¬start i) → s.frameIterate role ch bd pos t1 = none) ∧
      ∀ e, LeastIndex s.nv start e →
        (s.absLen.toNat ≤ cfg.lastStop bd (s.t e + bd / 2) → s.frameIterate role ch bd pos t1 = none) ∧
        (cfg.lastStop bd (s.t e + bd / 2) < s.absLen.toNat →
          (level (s.t e + bd / 2) ≠ cfg.invert →
            s.frameIterate role ch bd pos t1 =
              some ([.line (at32 (s.t e + bd / 2)) role .startErr], s.t e + 1)) ∧
          (level (s.t e + bd / 2) = cfg.invert →
            s.frameIterate role ch bd pos t1 =
              some (s.frameEvents role ch bd (s.t e + bd / 2), cfg.lastStop bd (s.t e + bd / 2) + 1))))

/-- The events of a frame: PARITY_ERR at its sample point on a mismatch, FRAME_ERR at each stop point that does not read
high with inversion removed, then the data symbol at the last stop point, always (R188, R191, R192, R206). -/
def Obligations.FrameEventsInOrder : Prop :=
  ∀ (s : State) (role : Role) (ch bd s0 : Nat),
    let cfg := s.snap.uartCfg
    let received := fun t => ((s.valueAt t).getLsbD ch ^^ cfg.invert)
    let x := s.dataWord ch bd s0
    let tp := s0 + (cfg.dataBits.toNat + 1) * bd
    ∃ ps fs : List Event,
      s.frameEvents role ch bd s0 = ps ++ fs ++ [.data (at32 (cfg.lastStop bd s0)) role x] ∧
      (cfg.parity = .none → ps = []) ∧
      (cfg.parity ≠ .none → received tp = parityBit cfg.parity cfg.dataBits.toNat x → ps = []) ∧
      (cfg.parity ≠ .none → received tp ≠ parityBit cfg.parity cfg.dataBits.toNat x →
        ps = [.line (at32 tp) role .parityErr]) ∧
      fs = ((cfg.stopPoints bd s0).filter (fun ts => received ts = false)).map
        (fun ts => .line (at32 ts) role .frameErr)

/-- The stop sample points and the last one (R190, R193): they come after every other sample of the frame and rise
strictly, but for a bit duration of 1 with 1.5 stop bits. -/
def Obligations.StopSamplePoints : Prop :=
  ∀ (c : UartCfg) (bd s0 : Nat), 1 ≤ bd →
    let p := if c.parity = .none then 0 else 1
    let base := s0 + (c.dataBits.toNat + p + 1) * bd
    (c.stop = .one → c.stopPoints bd s0 = [base]) ∧
    (c.stop = .oneAndHalf → c.stopPoints bd s0 = [base, base + bd / 2]) ∧
    (c.stop = .two → c.stopPoints bd s0 = [base, base + bd]) ∧
    (c.stopPoints bd s0).getLast? = some (c.lastStop bd s0) ∧
    (∀ ts ∈ c.stopPoints bd s0, s0 + (c.dataBits.toNat + p) * bd < ts) ∧
    (¬(bd = 1 ∧ c.stop = .oneAndHalf) → (c.stopPoints bd s0).Pairwise (· < ·))

/-- Data bit k - 1 of a frame is the level at `s0 + k * bd` with inversion removed, for k = 1 .. D, and no higher bit is
set (R187). -/
def Obligations.DataBitsAreLsbFirst : Prop :=
  ∀ (s : State) (ch bd s0 : Nat), ∀ k, k < 16 →
    (s.dataWord ch bd s0).getLsbD k =
      (decide (k < s.snap.uartCfg.dataBits.toNat) &&
        ((s.valueAt (s0 + (k + 1) * bd)).getLsbD ch ^^ s.snap.uartCfg.invert))

/-- Even parity makes the number of 1s in data and parity even, odd parity makes it odd. R189 takes this definition from
general knowledge (G1): assumption 10. -/
def Obligations.ParityBitMakesTheCount : Prop :=
  ∀ (d : Nat) (x : BitVec 16),
    let ones := (List.range d).countP (fun k => x.getLsbD k)
    (ones + (if parityBit .even d x then 1 else 0)) % 2 = 0 ∧
    (ones + (if parityBit .odd d x then 1 else 0)) % 2 = 1

/-- A control-line step, one for each transition of the pass (R218), the first step of the decode too: an edge emits
HIGH or LOW by the physical level, whatever INVERT says; no edge emits nothing (R197, R198). The pass visits the
transitions from 1 to NV - 1 whose timestamp lies in the region, in increasing order (R196). That the first iteration
happens in the step that starts the rule is the model's reading of R218: assumption 14. -/
def Obligations.ControlLineStepNamesTheLevel : Prop :=
  (∀ (s : State) (r : UartRegion),
    (s.ctrlIndices r).Pairwise (· < ·) ∧
      ∀ i, i ∈ s.ctrlIndices r ↔ 1 ≤ i ∧ i < s.nv ∧ r.t0 ≤ s.t i ∧ s.t i < r.t1) ∧
  ∀ (s : State) (scan : UartScan) (role : Role) (ch i : Nat) (rest : List UartItem),
    s.turn = .sequencer → UartScanAt s scan → scan.work = .ctrl role ch i :: rest → s.cancelReq = false →
    s.evtOvf = false → s.evtCount.toNat < s.eMax.toNat → s.mem.wf = true → 1 ≤ i →
      ∃ t, exec .decodeUart s = .next t ∧ t.seq = .uart { scan with work := rest } ∧
        t = { s with mem := t.mem, evtCount := t.evtCount, seq := t.seq } ∧
        (Rises s ch i → t.records = s.records ++ [(Event.line (at32 (s.t i)) role .high).record]) ∧
        (Falls s ch i → t.records = s.records ++ [(Event.line (at32 (s.t i)) role .low).record]) ∧
        (¬Changes s ch i → t.records = s.records ∧ t.mem = s.mem ∧ t.evtCount = s.evtCount) ∧
        ∀ a, a < eventAddr s.evtCount.toNat ∨ eventAddr s.evtCount.toNat + 8 ≤ a →
          t.mem.readByte a = s.mem.readByte a

/-- An estimator step of a UART decode, the first step of the decode too, keeps the bit duration for completion, and a
zero one sets the line's flag and ends its pass; it does not poll (R183, R195). The decode starts with the region, no
estimate, and the passes of the used lines in order: an estimator run for RxD and TxD, the transitions of the pass for a
control line (R175, R180, R196). An estimator run is one step (R218). That the first iteration happens in the step that
starts the rule is the model's reading of R218: assumption 14. -/
def Obligations.EstimatorStepKeepsTheBitDuration : Prop :=
  (∀ s : State,
    s.uartScan.t0 = s.uartRegion.t0 ∧ s.uartScan.t1 = s.uartRegion.t1 ∧ s.uartScan.baudRx = 0#32 ∧
      s.uartScan.baudTx = 0#32 ∧
      s.uartScan.work = s.snap.usedLines.flatMap (fun l =>
        if l.1 = .rxd ∨ l.1 = .txd then [.estimate l.1 l.2]
        else (s.ctrlIndices s.uartRegion).map (fun i => .ctrl l.1 l.2 i))) ∧
  ∀ (s : State) (scan : UartScan) (ch : Nat) (rest : List UartItem),
    s.turn = .sequencer → UartScanAt s scan →
    let bd := (estimateOf (s.durations (1#32 <<< ch))).best
    (scan.work = .estimate .rxd ch :: rest →
      exec .decodeUart s = .next
        { s with
          noBaudRx := if bd = 0 then true else s.noBaudRx
          seq := .uart { scan with
                         work := if bd = 0 then rest else .frame .rxd ch bd scan.t0 :: rest
                         baudRx := at32 bd } }) ∧
    (scan.work = .estimate .txd ch :: rest →
      exec .decodeUart s = .next
        { s with
          noBaudTx := if bd = 0 then true else s.noBaudTx
          seq := .uart { scan with
                         work := if bd = 0 then rest else .frame .txd ch bd scan.t0 :: rest
                         baudTx := at32 bd } })

/-- merge() reorders the records into non-decreasing TIME order and keeps the order of records with equal TIME (R204,
R208 a). -/
def Obligations.MergeSortsStablyByTime : Prop :=
  (∀ rs : List Record,
    (sortRecords rs).Perm rs ∧ TimeOrdered (sortRecords rs) ∧
      ∀ time : Word, (sortRecords rs).filter (fun q => q.1 == time) = rs.filter (fun q => q.1 == time)) ∧
  ∀ s : State, s.mem.wf = true → s.merge.records = sortRecords s.records

/-- The last steps of DECODE_UART: a poll that sees the cancel request, that of the very first step too, abandons every
iteration left; with none left, from the first step on where no line is used, the merge runs, and after it the
completion writes the counts and the estimates (R195, R204, R207, R219, R233). The merge and the completion are one step
each (R218). That the poll's cancel is a step of its own, and that the first iteration, or without any the merge,
happens in the step that starts the rule, is the model's reading of R218 and R219: assumption 14. -/
def Obligations.UartCancelMergeAndCompletionSteps : Prop :=
  ∀ s : State, s.turn = .sequencer →
    (∀ scan role ch bd pos i rest,
      UartScanAt s scan →
      scan.work = .frame role ch bd pos :: rest ∨ scan.work = .ctrl role ch i :: rest →
      s.cancelReq = true →
      exec .decodeUart s = .next { s with cancelled := true, seq := .uart { scan with work := [] } }) ∧
    (∀ scan, UartScanAt s scan → scan.work = [] → ∃ t,
      exec .decodeUart s = .next t ∧
        t = { s with mem := t.mem, seq := .uartClosing scan.baudRx scan.baudTx } ∧
        (s.mem.wf = true → t.records = sortRecords s.records ∧
          ∀ a, a < eventAddr 0 ∨ eventAddr s.evtCount.toNat ≤ a → t.mem.readByte a = s.mem.readByte a)) ∧
    (∀ rx tx, s.seq = .uartClosing rx tx →
      exec .decodeUart s = .next
        { completed s .ok with
          symCount := BitVec.ofNat 32 (s.records.countP (fun q => !infoIsLine q.2))
          errCount := BitVec.ofNat 32 (s.records.countP (fun q => infoIsError q.2))
          progress := if s.cancelled = true ∨ s.evtOvf = true then s.progress else 100#7
          baudRx := rx
          baudTx := tx })

/-- A DECODE_UART during which the host only reads and polls (R105), from the host's write to its completion: the event
memory holds the events of every pass in pass order, cut at E_MAX with EVT_OVF and then merged, with its counts (R175,
R180, R181, R183, R196, R204, R207, R218, R221, R233). BAUD_RX and NO_BAUD_RX follow the RxD estimate, and so do BAUD_TX
and NO_BAUD_TX the TxD estimate, unless the RxD pass overflows the event memory, for the TxD pass then never starts. For
an unused role, and for a pass that never starts, the estimate is 0 and the flag is clear (R48, R175, R221). -/
def Obligations.UartDecodeMergesItsWholeOutput : Prop :=
  ∀ s : State, ReadyForCommand s → s.storeValid = true →
    let a := s.accept .decodeUart
    let out := uartOutput a
    ∃ u k t, exec .decodeUart s = .next u ∧ Reaches k u t ∧
      t.busy = false ∧ t.done = true ∧ t.errCode = .ok ∧ t.cancelled = false ∧
      t.evtOvf = decide (s.eMax.toNat < out.length) ∧ t.records = sortRecords (taken s.eMax.toNat out) ∧
      t.symCount.toNat = (taken s.eMax.toNat out).countP (fun q => !infoIsLine q.2) ∧
      t.errCount.toNat = (taken s.eMax.toNat out).countP (fun q => infoIsError q.2) ∧
      (t.evtOvf = false → t.progress = 100#7) ∧
      (∀ ch, (Role.rxd, ch) ∈ a.snap.usedLines → t.baudRx.toNat = (estimateOf (a.durations (1#32 <<< ch))).best ∧
        (t.noBaudRx = true ↔ (estimateOf (a.durations (1#32 <<< ch))).best = 0)) ∧
      ((∀ ch, (Role.rxd, ch) ∉ a.snap.usedLines) → t.baudRx = 0#32 ∧ t.noBaudRx = false) ∧
      (∀ ch, (Role.txd, ch) ∈ a.snap.usedLines → (rxdOutput a).length ≤ s.eMax.toNat →
        t.baudTx.toNat = (estimateOf (a.durations (1#32 <<< ch))).best ∧
          (t.noBaudTx = true ↔ (estimateOf (a.durations (1#32 <<< ch))).best = 0)) ∧
      ((∀ ch, (Role.txd, ch) ∉ a.snap.usedLines) ∨ s.eMax.toNat < (rxdOutput a).length →
        t.baudTx = 0#32 ∧ t.noBaudTx = false) ∧
      t = { decoded s t with
            noBaudRx := t.noBaudRx, noBaudTx := t.noBaudTx, baudRx := t.baudRx, baudTx := t.baudTx } ∧
      (s.host = [] → t.host = [] ∧ t.readData = s.readData ∧ t.busErr = s.busErr) ∧
      ∀ a, a < eventAddr 0 ∨ eventAddr t.evtCount.toNat ≤ a → t.mem.readByte a = s.mem.readByte a

/-! ## Every command -/

/-- Every command completes after finitely many steps, with DONE set, whatever accesses the host makes meanwhile, as long
as no reset comes (R223, R105). The host's plan gives the sequencer its turns: assumption 11. -/
def Obligations.EveryCommandCompletes : Prop :=
  ∀ s : State, Inv s → NoReset s → s.busy = true →
    ∃ k t, Reaches k s t ∧ t.busy = false ∧ t.done = true

/-- While one decode runs, PROGRESS never falls and never passes 100, whatever the hardware draws (R222). Where a draw is
published: assumption 3. -/
def Obligations.ProgressNeverFalls : Prop :=
  ∀ s t : State, s.progress.toNat ≤ 100 → s.platform = [] → step s = .next t → t.busy = true →
    s.seq.command = t.seq.command → s.seq.isDecode = true →
      s.progress.toNat ≤ t.progress.toNat ∧ t.progress.toNat ≤ 100

/-- IRQ is DONE AND IRQ_EN: raised by a completion when enabled, whatever the code; lowered by a W1C write of DONE, by an
acceptance, and by IRQ_EN = 0, which leaves DONE (R240). -/
def Obligations.InterruptFollowsDone : Prop :=
  (∀ s : State, s.irq = true ↔ s.done = true ∧ s.irqEn = true) ∧
  (∀ n e : Word, (State.resetWith n e).irq = false) ∧
  (∀ (s : State) (code : ErrCode), (s.complete code).irq = s.irqEn) ∧
  (∀ (s t : State) (c : Command), s.turn = .host → s.busy = false → exec c.instr s = .next t → t.irq = false) ∧
  (∀ (s t : State) (w : Word), w.getLsbD 1 = true → exec (.statusW1c w) s = .next t → t.irq = false) ∧
  (∀ (s t : State) (w : Word), w.getLsbD 0 = false → exec (.ctrlWr w) s = .next t →
    t.irq = false ∧ t.done = s.done)

/-! ## Bus accesses -/

/-- A misaligned or sub-word access, one to a reserved offset and one outside every region have no effect but BUS_ERR; a
read returns 0; so has a write to either window. A write to a read-only register has no effect at all (R72, R73, I20).
That an offset at or past 64 MiB is outside every region is the model's reading of R73: assumption 13. -/
def Obligations.RefusedAccessesOnlySetBusError : Prop :=
  ∀ (s : State) (size : AccessSize) (a data : Word),
    (refusedAccess size a.toNat →
      s.busRead size a = { s with readData := 0#32, busErr := true } ∧
      deliver ⟨size, a, data⟩ s = .next { s with busErr := true }) ∧
    (0x01000000 ≤ a.toNat → a.toNat < 0x03000000 → deliver ⟨size, a, data⟩ s = .next { s with busErr := true }) ∧
    ∀ o ∈ readOnlyOffsets, deliver ⟨.word, BitVec.ofNat 32 o, data⟩ s = .next s

/-- Window reads: the stored words of the valid entries, 0 beyond them, and no flag (R74); the event window the same while
BUSY = 0, and while BUSY = 1 any value, a fresh draw (R75). The form of the draw is the model's own: assumption 2. -/
def Obligations.WindowsReadTheValidEntries : Prop :=
  ∀ (s : State) (i : Nat), i < 2 ^ 21 →
    (i < s.nTrans.toNat →
      s.busRead .word (at32 (transAddr i)) = { s with readData := s.v i } ∧
      s.busRead .word (at32 (transAddr i + 4)) = { s with readData := at32 (s.t i) }) ∧
    (s.nTrans.toNat ≤ i →
      s.busRead .word (at32 (transAddr i)) = { s with readData := 0#32 } ∧
      s.busRead .word (at32 (transAddr i + 4)) = { s with readData := 0#32 }) ∧
    (s.busy = false →
      (i < s.evtCount.toNat →
        s.busRead .word (at32 (eventAddr i)) = { s with readData := (s.mem.record i).1 } ∧
        s.busRead .word (at32 (eventAddr i + 4)) = { s with readData := (s.mem.record i).2 }) ∧
      (s.evtCount.toNat ≤ i →
        s.busRead .word (at32 (eventAddr i)) = { s with readData := 0#32 } ∧
        s.busRead .word (at32 (eventAddr i + 4)) = { s with readData := 0#32 })) ∧
    (s.busy = true →
      s.busRead .word (at32 (eventAddr i)) = { s with readData := Config.busyRead s.draws, draws := s.draws + 1 } ∧
      s.busRead .word (at32 (eventAddr i + 4)) = { s with readData := Config.busyRead s.draws, draws := s.draws + 1 })

/-- The fields and codes of an event record (R100, R101, R102). The records that the counts of a decode count: SYM_COUNT
those of a data symbol, ERR_COUNT those of START_ERR, PARITY_ERR and FRAME_ERR (R207). -/
def Obligations.EventRecordFields : Prop :=
  (∀ (time : Word) (r : Role) (x : BitVec 16),
    (Event.data time r x).record.1 = time ∧ (Event.data time r x).record.2.toNat = x.toNat + 2 ^ 16 * r.code.toNat) ∧
  (∀ (time : Word) (r : Role) (l : Label),
    (Event.line time r l).record.1 = time ∧
      (Event.line time r l).record.2.toNat = 2 ^ 16 * r.code.toNat + 2 ^ 24 * l.code.toNat + 2 ^ 31) ∧
  [Role.rxd, .txd, .cts, .rts, .dtr, .dsr, .dcd, .ri, .mosi, .miso, .cs].map Role.code =
    [0#8, 1#8, 2#8, 3#8, 4#8, 5#8, 6#8, 7#8, 8#8, 9#8, 10#8] ∧
  [Label.csLow, .csHigh, .startErr, .parityErr, .frameErr, .high, .low].map Label.code =
    [1#7, 2#7, 3#7, 4#7, 5#7, 6#7, 7#7] ∧
  (∀ (time : Word) (r : Role) (x : BitVec 16),
    infoIsLine (Event.data time r x).record.2 = false ∧ infoIsError (Event.data time r x).record.2 = false) ∧
  ∀ (time : Word) (r : Role) (l : Label),
    infoIsLine (Event.line time r l).record.2 = true ∧
      (infoIsError (Event.line time r l).record.2 = true ↔ l = .startErr ∨ l = .parityErr ∨ l = .frameErr)

/-! ## The capture file -/

/-- The file that a committed store is serialised to loads without a format error, and running the load on a block just
out of reset commits a store with the same values, timestamps and header, and reports success (R138). Every load ends with
STORE_COMMIT and a read of ERRCODE, from which a commit error is reported as a format error of the load (R137). -/
def Obligations.SerialisedStoreLoadsBack : Prop :=
  (∀ (n : Nat) (lines : List TextLine) (script : Script), loadFile n lines = .ok script →
    ∃ front, script = front ++ Script.run .storeCommit ++ Script.rd .errCode) ∧
  (∀ s : State, (s.errCode = .ok → (s.busRead .word 0x01C#32).loadReport = .ok ()) ∧
    (s.errCode ≠ .ok → (s.busRead .word 0x01C#32).loadReport = .error (.commitFailed s.errCode.toWord))) ∧
  ∀ s : State, Inv s → s.storeValid = true →
    ∃ script, loadFile s.nMax.toNat s.serialise = .ok script ∧
      ∃ k t, Reaches k { State.resetWith s.nMax s.eMax with host := script } t ∧
        t.host = [] ∧ t.storeValid = true ∧ t.nTrans = s.nTrans ∧ t.absLen = s.absLen ∧
        t.channels = s.channels ∧ t.rateValid = s.rateValid ∧ (s.rateValid = true → t.rate = s.rate) ∧
        t.trigValid = s.trigValid ∧ (s.trigValid = true → t.trigger = s.trigger) ∧ t.enMask = s.enMask ∧
        t.loadReport = .ok () ∧
        ∀ i, i < s.nTrans.toNat → t.v i = s.v i ∧ t.t i = s.t i

/-! ## Register reads -/

/-- No read of any address has a side effect on the block but BUS_ERR (R72, R76). A host read of a read-only register
returns what the register holds and changes nothing else, BUSY or not: ID the constant 0x4A4C4143, ERRCODE with the
twelve codes, RESULT0 to RESULT2, PROGRESS, ST_NTRANS, RAW_COUNT, BAUD_RX and BAUD_TX; EVT_COUNT, SYM_COUNT and
ERR_COUNT while BUSY = 0, and a fresh draw, any value, while BUSY = 1. The write-only registers CMD, PUSH_TS and
RAW_SAMPLE read 0 (R21, R24, R27, R29 to R34, R42, R43, R48, R52, R230). NMAX and EMAX: CapacitiesAreConstant. The form
of the draw is the model's own: assumption 2. -/
def Obligations.ReadOnlyRegistersReadTheirState : Prop :=
  [ErrCode.ok, .illegalCmd, .noStore, .range, .fmtCapacity, .fmtMixed, .fmtEmpty, .fmtT0, .fmtOrder, .fmtDup, .fmtAbsLen,
      .noStart].map ErrCode.toWord =
    [0#32, 1#32, 2#32, 3#32, 4#32, 5#32, 6#32, 7#32, 8#32, 9#32, 10#32, 11#32] ∧
  (∀ (s : State) (size : AccessSize) (a : Word),
    let t := s.busRead size a
    t = { s with readData := t.readData, busErr := t.busErr, draws := t.draws }) ∧
  ∀ s : State,
    s.busRead .word 0x000#32 = { s with readData := 0x4A4C4143#32 } ∧
    s.busRead .word 0x010#32 = { s with readData := 0#32 } ∧
    s.busRead .word 0x068#32 = { s with readData := 0#32 } ∧
    s.busRead .word 0x06C#32 = { s with readData := 0#32 } ∧
    s.busRead .word 0x01C#32 = { s with readData := s.errCode.toWord } ∧
    s.busRead .word 0x024#32 = { s with readData := s.result0 } ∧
    s.busRead .word 0x028#32 = { s with readData := s.result1 } ∧
    s.busRead .word 0x02C#32 = { s with readData := s.result2 } ∧
    s.busRead .word 0x030#32 = { s with readData := at32 s.progress.toNat } ∧
    s.busRead .word 0x040#32 = { s with readData := s.nTrans } ∧
    s.busRead .word 0x070#32 = { s with readData := s.rawCount } ∧
    s.busRead .word 0x094#32 = { s with readData := s.baudRx } ∧
    s.busRead .word 0x098#32 = { s with readData := s.baudTx } ∧
    (s.busy = false →
      s.busRead .word 0x034#32 = { s with readData := s.evtCount } ∧
      s.busRead .word 0x038#32 = { s with readData := s.symCount } ∧
      s.busRead .word 0x03C#32 = { s with readData := s.errCount }) ∧
    (s.busy = true → ∀ a ∈ [0x034#32, 0x038#32, 0x03C#32],
      s.busRead .word a = { s with readData := Config.busyRead s.draws, draws := s.draws + 1 })
end

