-- ==== Sys2Proof/Laws/Memory.lean ====
section
/-! SUPPORT. The laws of the memory (spec/10_state.md R46, R47, spec/20_memory.md R71): every operation keeps the
canonical form, a read after a write gives the value written, and a write leaves every other byte alone. -/

namespace Sys2Proof.Machine.Memory

open Sys2Proof.Machine

/-- Every listed address is above `a`. -/
def above (a : Nat) (m : Memory) : Prop := ∀ c ∈ m, a < c.1

theorem above_nil (a : Nat) : above a [] := by simp [above]

theorem above_cons {a : Nat} {c : Host.Cell} {m : Memory} : above a (c :: m) ↔ a < c.1 ∧ above a m := by
  simp [above]

theorem above_of_lt {a b : Nat} {m : Memory} (h : above b m) (hab : a < b) : above a m :=
  fun c hc => Nat.lt_trans hab (h c hc)

/-- Sortedness of a non-empty memory, by its head. -/
theorem sorted_cons {a : Nat} {b : Byte} {m : Memory} :
    Memory.sorted ((a, b) :: m) = true ↔ above a m ∧ m.sorted = true := by
  induction m generalizing a b with
  | nil => simp [Memory.sorted, above]
  | cons c m ih =>
    obtain ⟨k, v⟩ := c
    rw [Memory.sorted, Bool.and_eq_true, decide_eq_true_eq, above_cons, ih]
    constructor
    · rintro ⟨h, hk, hm⟩; exact ⟨⟨h, above_of_lt hk h⟩, hk, hm⟩
    · rintro ⟨⟨h, -⟩, hk, hm⟩; exact ⟨h, hk, hm⟩

/-- The canonical form of a non-empty memory, by its head. -/
theorem wf_cons {a : Nat} {b : Byte} {m : Memory} :
    Memory.wf ((a, b) :: m) = true ↔ above a m ∧ b ≠ unlisted ∧ m.wf = true := by
  simp only [Memory.wf, Bool.and_eq_true, sorted_cons, List.all_cons, bne_iff_ne]
  tauto

@[simp] theorem wf_nil : Memory.wf [] = true := rfl

/-- An address below every listed one reads as unlisted. -/
theorem readByte_of_above {a : Nat} {m : Memory} (h : above a m) : m.readByte a = unlisted := by
  induction m with
  | nil => rfl
  | cons c m ih =>
    obtain ⟨k, v⟩ := c
    rw [above_cons] at h
    rw [readByte, if_neg (Nat.ne_of_lt h.1), ih h.2]

theorem entry_above {a k : Nat} {b : Byte} {m : Memory} (hk : k < a) (h : above k m) : above k (entry a b m) := by
  unfold entry
  split
  · exact h
  · exact above_cons.2 ⟨hk, h⟩

theorem entry_wf {a : Nat} {b : Byte} {m : Memory} (h : above a m) (hm : m.wf = true) : (entry a b m).wf = true := by
  unfold entry
  split
  · exact hm
  · next hb => exact wf_cons.2 ⟨h, hb, hm⟩

theorem readByte_entry {a x : Nat} {b : Byte} {m : Memory} (h : above a m) :
    (entry a b m).readByte x = if x = a then b else m.readByte x := by
  unfold entry
  split
  · next hb =>
    split
    · next hx => rw [hx, readByte_of_above h, hb]
    · rfl
  · rw [readByte]

theorem writeByte_above {a k : Nat} {b : Byte} {m : Memory} (hk : k < a) (h : above k m) :
    above k (m.writeByte a b) := by
  induction m with
  | nil => exact entry_above hk h
  | cons c m ih =>
    obtain ⟨j, v⟩ := c
    rw [above_cons] at h
    rw [writeByte]
    split
    · exact entry_above hk (above_cons.2 h)
    · split
      · exact entry_above hk h.2
      · exact above_cons.2 ⟨h.1, ih h.2⟩

/-- Writing a byte keeps the canonical form. -/
theorem writeByte_wf {m : Memory} (hm : m.wf = true) (a : Nat) (b : Byte) : (m.writeByte a b).wf = true := by
  induction m with
  | nil => exact entry_wf (above_nil a) hm
  | cons c m ih =>
    obtain ⟨k, v⟩ := c
    have hm' := wf_cons.1 hm
    rw [writeByte]
    split
    · next h => exact entry_wf (above_cons.2 ⟨h, above_of_lt hm'.1 h⟩) hm
    · split
      · next h => subst h; exact entry_wf hm'.1 hm'.2.2
      · next h h' => exact wf_cons.2 ⟨writeByte_above (by omega) hm'.1, hm'.2.1, ih hm'.2.2⟩

/-- Reading a byte after writing one. -/
theorem readByte_writeByte {m : Memory} (hm : m.wf = true) (a x : Nat) (b : Byte) :
    (m.writeByte a b).readByte x = if x = a then b else m.readByte x := by
  induction m with
  | nil => exact readByte_entry (above_nil a)
  | cons c m ih =>
    obtain ⟨k, v⟩ := c
    have hm' := wf_cons.1 hm
    rw [writeByte]
    split
    · next h => exact readByte_entry (above_cons.2 ⟨h, above_of_lt hm'.1 h⟩)
    · split
      · next h h' =>
        subst h'
        rw [readByte_entry hm'.1, readByte]
        split <;> simp_all
      · next h h' =>
        rw [readByte, readByte, ih hm'.2.2]
        split
        · next hx => rw [if_neg]; omega
        · rfl

/-! ## Words -/

/-- Writing a word keeps the canonical form. -/
theorem writeWord_wf {m : Memory} (hm : m.wf = true) (a : Nat) (w : Word) : (m.writeWord a w).wf = true :=
  writeByte_wf (writeByte_wf (writeByte_wf (writeByte_wf hm _ _) _ _) _ _) _ _

/-- A byte outside the four of a written word reads as before. -/
theorem readByte_writeWord_of_ne {m : Memory} (hm : m.wf = true) {a x : Nat} (w : Word)
    (h : x < a ∨ a + 4 ≤ x) : (m.writeWord a w).readByte x = m.readByte x := by
  unfold writeWord
  rw [readByte_writeByte (writeByte_wf (writeByte_wf (writeByte_wf hm _ _) _ _) _ _),
    readByte_writeByte (writeByte_wf (writeByte_wf hm _ _) _ _),
    readByte_writeByte (writeByte_wf hm _ _), readByte_writeByte hm]
  rw [if_neg (by omega), if_neg (by omega), if_neg (by omega), if_neg (by omega)]

/-- A word that shares no byte with a written one reads as before. -/
theorem readWord_writeWord_of_ne {m : Memory} (hm : m.wf = true) {a x : Nat} (w : Word)
    (h : x + 4 ≤ a ∨ a + 4 ≤ x) : (m.writeWord a w).readWord x = m.readWord x := by
  unfold readWord
  rw [readByte_writeWord_of_ne hm w (by omega), readByte_writeWord_of_ne hm w (by omega),
    readByte_writeWord_of_ne hm w (by omega), readByte_writeWord_of_ne hm w (by omega)]

/-- The four bytes of a word, put together again, are the word. -/
theorem word_of_bytes (w : Word) :
    w.extractLsb' 24 8 ++ w.extractLsb' 16 8 ++ w.extractLsb' 8 8 ++ w.extractLsb' 0 8 = w := by
  apply BitVec.eq_of_getLsbD_eq
  intro i hi
  simp only [BitVec.getLsbD_append, BitVec.getLsbD_extractLsb']
  by_cases h1 : i < 8
  · simp [h1]
  · by_cases h2 : i - 8 < 8
    · simp [h1, h2, show 8 + (i - 8) = i by omega]
    · by_cases h3 : i - 8 - 8 < 8
      · simp [h1, h2, h3, show 16 + (i - 8 - 8) = i by omega]
      · simp [h1, h2, h3, show 24 + (i - 8 - 8 - 8) = i by omega, show i - 8 - 8 - 8 < 8 by omega]

/-- Reading a word that was just written gives it back. -/
theorem readWord_writeWord_same {m : Memory} (hm : m.wf = true) (a : Nat) (w : Word) :
    (m.writeWord a w).readWord a = w := by
  have e : ∀ x, (m.writeWord a w).readByte x =
      if x = a + 3 then w.extractLsb' 24 8 else if x = a + 2 then w.extractLsb' 16 8
      else if x = a + 1 then w.extractLsb' 8 8 else if x = a then w.extractLsb' 0 8 else m.readByte x := by
    intro x
    unfold writeWord
    rw [readByte_writeByte (writeByte_wf (writeByte_wf (writeByte_wf hm _ _) _ _) _ _),
      readByte_writeByte (writeByte_wf (writeByte_wf hm _ _) _ _),
      readByte_writeByte (writeByte_wf hm _ _), readByte_writeByte hm]
  unfold readWord
  rw [e, e, e, e]
  simpa using word_of_bytes w

/-! ## Records -/

theorem writeRecord_wf {m : Memory} (hm : m.wf = true) (k : Nat) (r : Record) : (m.writeRecord k r).wf = true :=
  writeWord_wf (writeWord_wf hm _ _) _ _

/-- A written record reads back. -/
theorem record_writeRecord_same {m : Memory} (hm : m.wf = true) (k : Nat) (r : Record) :
    (m.writeRecord k r).record k = r := by
  unfold record writeRecord
  rw [readWord_writeWord_same (writeWord_wf hm _ _), readWord_writeWord_of_ne (writeWord_wf hm _ _) _ (by omega),
    readWord_writeWord_same hm]

/-- A word that lies outside a written record reads as before. -/
theorem readWord_writeRecord_of_ne {m : Memory} (hm : m.wf = true) {k x : Nat} (r : Record)
    (h : x + 4 ≤ eventAddr k ∨ eventAddr k + 8 ≤ x) : (m.writeRecord k r).readWord x = m.readWord x := by
  unfold writeRecord
  rw [readWord_writeWord_of_ne (writeWord_wf hm _ _) _ (by omega), readWord_writeWord_of_ne hm _ (by omega)]

/-- Another record reads as before. -/
theorem record_writeRecord_of_ne {m : Memory} (hm : m.wf = true) {j k : Nat} (r : Record) (h : j ≠ k) :
    (m.writeRecord k r).record j = m.record j := by
  have hj : eventAddr j + 8 ≤ eventAddr k ∨ eventAddr k + 8 ≤ eventAddr j := by unfold eventAddr; omega
  unfold record
  rw [readWord_writeRecord_of_ne hm r (by omega), readWord_writeRecord_of_ne hm r (by omega)]

theorem writeRecords_wf {m : Memory} (hm : m.wf = true) (k : Nat) (rs : List Record) :
    (m.writeRecords k rs).wf = true := by
  induction rs generalizing m k with
  | nil => exact hm
  | cons r rs ih => exact ih (writeRecord_wf hm k r) (k + 1)

/-- A word outside the written records reads as before. -/
theorem readWord_writeRecords_of_ne {m : Memory} (hm : m.wf = true) {k x : Nat} (rs : List Record)
    (h : x + 4 ≤ eventAddr k ∨ eventAddr (k + rs.length) ≤ x) :
    (m.writeRecords k rs).readWord x = m.readWord x := by
  induction rs generalizing m k with
  | nil => rfl
  | cons r rs ih =>
    simp only [List.length_cons, eventAddr] at h
    rw [writeRecords, ih (writeRecord_wf hm k r) (by unfold eventAddr; omega),
      readWord_writeRecord_of_ne hm r (by unfold eventAddr; omega)]

/-- A record before the written ones reads as before. -/
theorem record_writeRecords_of_lt {m : Memory} (hm : m.wf = true) {j k : Nat} (rs : List Record) (h : j < k) :
    (m.writeRecords k rs).record j = m.record j := by
  have hj : eventAddr j + 8 ≤ eventAddr k := by unfold eventAddr; omega
  unfold record
  rw [readWord_writeRecords_of_ne hm rs (by omega), readWord_writeRecords_of_ne hm rs (by omega)]

/-- Reading a run of records back gives the list that was written. -/
theorem records_writeRecords {m : Memory} (hm : m.wf = true) (k : Nat) (rs : List Record) :
    (List.range' k rs.length).map (m.writeRecords k rs).record = rs := by
  induction rs generalizing m k with
  | nil => rfl
  | cons r rs ih =>
    rw [List.length_cons, List.range'_succ, List.map_cons, writeRecords,
      ih (writeRecord_wf hm k r) (k + 1), record_writeRecords_of_lt (writeRecord_wf hm k r) rs (Nat.lt_succ_self k),
      record_writeRecord_same hm]

end Sys2Proof.Machine.Memory
end

