-- ==== Sys2Proof/Laws/State.lean ====
section
/-! SUPPORT. For each named update of State, one lemma per field: what the field is after it. All are true by `rfl`, so
that no proof unfolds a record update. -/

namespace Sys2Proof.Machine

variable (s : State)

/-! ## Completion (R233) -/

@[simp] theorem State.complete_nMax (c : ErrCode) : (s.complete c).nMax = s.nMax := rfl
@[simp] theorem State.complete_eMax (c : ErrCode) : (s.complete c).eMax = s.eMax := rfl
@[simp] theorem State.complete_done (c : ErrCode) : (s.complete c).done = true := rfl
@[simp] theorem State.complete_storeValid (c : ErrCode) : (s.complete c).storeValid = s.storeValid := rfl
@[simp] theorem State.complete_cancelled (c : ErrCode) : (s.complete c).cancelled = s.cancelled := rfl
@[simp] theorem State.complete_evtOvf (c : ErrCode) : (s.complete c).evtOvf = s.evtOvf := rfl
@[simp] theorem State.complete_noBaudRx (c : ErrCode) : (s.complete c).noBaudRx = s.noBaudRx := rfl
@[simp] theorem State.complete_noBaudTx (c : ErrCode) : (s.complete c).noBaudTx = s.noBaudTx := rfl
@[simp] theorem State.complete_cmdOvr (c : ErrCode) : (s.complete c).cmdOvr = s.cmdOvr := rfl
@[simp] theorem State.complete_wrIgn (c : ErrCode) : (s.complete c).wrIgn = s.wrIgn := rfl
@[simp] theorem State.complete_busErr (c : ErrCode) : (s.complete c).busErr = s.busErr := rfl
@[simp] theorem State.complete_loadOvf (c : ErrCode) : (s.complete c).loadOvf = s.loadOvf := rfl
@[simp] theorem State.complete_loadMixed (c : ErrCode) : (s.complete c).loadMixed = s.loadMixed := rfl
@[simp] theorem State.complete_irqEn (c : ErrCode) : (s.complete c).irqEn = s.irqEn := rfl
@[simp] theorem State.complete_cancelReq (c : ErrCode) : (s.complete c).cancelReq = false := rfl
@[simp] theorem State.complete_errCode (c : ErrCode) : (s.complete c).errCode = c := rfl
@[simp] theorem State.complete_arg0 (c : ErrCode) : (s.complete c).arg0 = s.arg0 := rfl
@[simp] theorem State.complete_result0 (c : ErrCode) : (s.complete c).result0 = s.result0 := rfl
@[simp] theorem State.complete_result1 (c : ErrCode) : (s.complete c).result1 = s.result1 := rfl
@[simp] theorem State.complete_result2 (c : ErrCode) : (s.complete c).result2 = s.result2 := rfl
@[simp] theorem State.complete_progress (c : ErrCode) : (s.complete c).progress = s.progress := rfl
@[simp] theorem State.complete_evtCount (c : ErrCode) : (s.complete c).evtCount = s.evtCount := rfl
@[simp] theorem State.complete_symCount (c : ErrCode) : (s.complete c).symCount = s.symCount := rfl
@[simp] theorem State.complete_errCount (c : ErrCode) : (s.complete c).errCount = s.errCount := rfl
@[simp] theorem State.complete_nTrans (c : ErrCode) : (s.complete c).nTrans = s.nTrans := rfl
@[simp] theorem State.complete_absLen (c : ErrCode) : (s.complete c).absLen = s.absLen := rfl
@[simp] theorem State.complete_trigger (c : ErrCode) : (s.complete c).trigger = s.trigger := rfl
@[simp] theorem State.complete_rate (c : ErrCode) : (s.complete c).rate = s.rate := rfl
@[simp] theorem State.complete_channels (c : ErrCode) : (s.complete c).channels = s.channels := rfl
@[simp] theorem State.complete_trigValid (c : ErrCode) : (s.complete c).trigValid = s.trigValid := rfl
@[simp] theorem State.complete_rateValid (c : ErrCode) : (s.complete c).rateValid = s.rateValid := rfl
@[simp] theorem State.complete_enMask (c : ErrCode) : (s.complete c).enMask = s.enMask := rfl
@[simp] theorem State.complete_cursorEn (c : ErrCode) : (s.complete c).cursorEn = s.cursorEn := rfl
@[simp] theorem State.complete_cursorA (c : ErrCode) : (s.complete c).cursorA = s.cursorA := rfl
@[simp] theorem State.complete_cursorB (c : ErrCode) : (s.complete c).cursorB = s.cursorB := rfl
@[simp] theorem State.complete_pushValue (c : ErrCode) : (s.complete c).pushValue = s.pushValue := rfl
@[simp] theorem State.complete_rawCount (c : ErrCode) : (s.complete c).rawCount = s.rawCount := rfl
@[simp] theorem State.complete_spiCh (c : ErrCode) : (s.complete c).spiCh = s.spiCh := rfl
@[simp] theorem State.complete_spiMode (c : ErrCode) : (s.complete c).spiMode = s.spiMode := rfl
@[simp] theorem State.complete_uartCfg (c : ErrCode) : (s.complete c).uartCfg = s.uartCfg := rfl
@[simp] theorem State.complete_lines0 (c : ErrCode) : (s.complete c).lines0 = s.lines0 := rfl
@[simp] theorem State.complete_lines1 (c : ErrCode) : (s.complete c).lines1 = s.lines1 := rfl
@[simp] theorem State.complete_baudRx (c : ErrCode) : (s.complete c).baudRx = s.baudRx := rfl
@[simp] theorem State.complete_baudTx (c : ErrCode) : (s.complete c).baudTx = s.baudTx := rfl
@[simp] theorem State.complete_mem (c : ErrCode) : (s.complete c).mem = s.mem := rfl
@[simp] theorem State.complete_loadMode (c : ErrCode) : (s.complete c).loadMode = s.loadMode := rfl
@[simp] theorem State.complete_snap (c : ErrCode) : (s.complete c).snap = s.snap := rfl
@[simp] theorem State.complete_seq (c : ErrCode) : (s.complete c).seq = .idle := rfl
@[simp] theorem State.complete_inReset (c : ErrCode) : (s.complete c).inReset = s.inReset := rfl
@[simp] theorem State.complete_turn (c : ErrCode) : (s.complete c).turn = s.turn := rfl
@[simp] theorem State.complete_readData (c : ErrCode) : (s.complete c).readData = s.readData := rfl
@[simp] theorem State.complete_draws (c : ErrCode) : (s.complete c).draws = s.draws := rfl
@[simp] theorem State.complete_host (c : ErrCode) : (s.complete c).host = s.host := rfl
@[simp] theorem State.complete_platform (c : ErrCode) : (s.complete c).platform = s.platform := rfl

/-! ## Acceptance of any command (R216) -/

@[simp] theorem State.acceptAny_nMax (c : Command) : (s.acceptAny c).nMax = s.nMax := rfl
@[simp] theorem State.acceptAny_eMax (c : Command) : (s.acceptAny c).eMax = s.eMax := rfl
@[simp] theorem State.acceptAny_done (c : Command) : (s.acceptAny c).done = false := rfl
@[simp] theorem State.acceptAny_storeValid (c : Command) : (s.acceptAny c).storeValid = s.storeValid := rfl
@[simp] theorem State.acceptAny_cancelled (c : Command) : (s.acceptAny c).cancelled = false := rfl
@[simp] theorem State.acceptAny_evtOvf (c : Command) : (s.acceptAny c).evtOvf = false := rfl
@[simp] theorem State.acceptAny_noBaudRx (c : Command) : (s.acceptAny c).noBaudRx = false := rfl
@[simp] theorem State.acceptAny_noBaudTx (c : Command) : (s.acceptAny c).noBaudTx = false := rfl
@[simp] theorem State.acceptAny_cmdOvr (c : Command) : (s.acceptAny c).cmdOvr = s.cmdOvr := rfl
@[simp] theorem State.acceptAny_wrIgn (c : Command) : (s.acceptAny c).wrIgn = s.wrIgn := rfl
@[simp] theorem State.acceptAny_busErr (c : Command) : (s.acceptAny c).busErr = s.busErr := rfl
@[simp] theorem State.acceptAny_loadOvf (c : Command) : (s.acceptAny c).loadOvf = s.loadOvf := rfl
@[simp] theorem State.acceptAny_loadMixed (c : Command) : (s.acceptAny c).loadMixed = s.loadMixed := rfl
@[simp] theorem State.acceptAny_irqEn (c : Command) : (s.acceptAny c).irqEn = s.irqEn := rfl
@[simp] theorem State.acceptAny_cancelReq (c : Command) : (s.acceptAny c).cancelReq = false := rfl
@[simp] theorem State.acceptAny_errCode (c : Command) : (s.acceptAny c).errCode = .ok := rfl
@[simp] theorem State.acceptAny_arg0 (c : Command) : (s.acceptAny c).arg0 = s.arg0 := rfl
@[simp] theorem State.acceptAny_result0 (c : Command) : (s.acceptAny c).result0 = s.result0 := rfl
@[simp] theorem State.acceptAny_result1 (c : Command) : (s.acceptAny c).result1 = s.result1 := rfl
@[simp] theorem State.acceptAny_result2 (c : Command) : (s.acceptAny c).result2 = s.result2 := rfl
@[simp] theorem State.acceptAny_progress (c : Command) : (s.acceptAny c).progress = s.progress := rfl
@[simp] theorem State.acceptAny_evtCount (c : Command) : (s.acceptAny c).evtCount = s.evtCount := rfl
@[simp] theorem State.acceptAny_symCount (c : Command) : (s.acceptAny c).symCount = s.symCount := rfl
@[simp] theorem State.acceptAny_errCount (c : Command) : (s.acceptAny c).errCount = s.errCount := rfl
@[simp] theorem State.acceptAny_nTrans (c : Command) : (s.acceptAny c).nTrans = s.nTrans := rfl
@[simp] theorem State.acceptAny_absLen (c : Command) : (s.acceptAny c).absLen = s.absLen := rfl
@[simp] theorem State.acceptAny_trigger (c : Command) : (s.acceptAny c).trigger = s.trigger := rfl
@[simp] theorem State.acceptAny_rate (c : Command) : (s.acceptAny c).rate = s.rate := rfl
@[simp] theorem State.acceptAny_channels (c : Command) : (s.acceptAny c).channels = s.channels := rfl
@[simp] theorem State.acceptAny_trigValid (c : Command) : (s.acceptAny c).trigValid = s.trigValid := rfl
@[simp] theorem State.acceptAny_rateValid (c : Command) : (s.acceptAny c).rateValid = s.rateValid := rfl
@[simp] theorem State.acceptAny_enMask (c : Command) : (s.acceptAny c).enMask = s.enMask := rfl
@[simp] theorem State.acceptAny_cursorEn (c : Command) : (s.acceptAny c).cursorEn = s.cursorEn := rfl
@[simp] theorem State.acceptAny_cursorA (c : Command) : (s.acceptAny c).cursorA = s.cursorA := rfl
@[simp] theorem State.acceptAny_cursorB (c : Command) : (s.acceptAny c).cursorB = s.cursorB := rfl
@[simp] theorem State.acceptAny_pushValue (c : Command) : (s.acceptAny c).pushValue = s.pushValue := rfl
@[simp] theorem State.acceptAny_rawCount (c : Command) : (s.acceptAny c).rawCount = s.rawCount := rfl
@[simp] theorem State.acceptAny_spiCh (c : Command) : (s.acceptAny c).spiCh = s.spiCh := rfl
@[simp] theorem State.acceptAny_spiMode (c : Command) : (s.acceptAny c).spiMode = s.spiMode := rfl
@[simp] theorem State.acceptAny_uartCfg (c : Command) : (s.acceptAny c).uartCfg = s.uartCfg := rfl
@[simp] theorem State.acceptAny_lines0 (c : Command) : (s.acceptAny c).lines0 = s.lines0 := rfl
@[simp] theorem State.acceptAny_lines1 (c : Command) : (s.acceptAny c).lines1 = s.lines1 := rfl
@[simp] theorem State.acceptAny_baudRx (c : Command) : (s.acceptAny c).baudRx = s.baudRx := rfl
@[simp] theorem State.acceptAny_baudTx (c : Command) : (s.acceptAny c).baudTx = s.baudTx := rfl
@[simp] theorem State.acceptAny_mem (c : Command) : (s.acceptAny c).mem = s.mem := rfl
@[simp] theorem State.acceptAny_loadMode (c : Command) : (s.acceptAny c).loadMode = s.loadMode := rfl
@[simp] theorem State.acceptAny_snap (c : Command) : (s.acceptAny c).snap = s.snapshot := rfl
@[simp] theorem State.acceptAny_seq (c : Command) : (s.acceptAny c).seq = .pending c := rfl
@[simp] theorem State.acceptAny_inReset (c : Command) : (s.acceptAny c).inReset = s.inReset := rfl
@[simp] theorem State.acceptAny_turn (c : Command) : (s.acceptAny c).turn = s.turn := rfl
@[simp] theorem State.acceptAny_readData (c : Command) : (s.acceptAny c).readData = s.readData := rfl
@[simp] theorem State.acceptAny_draws (c : Command) : (s.acceptAny c).draws = s.draws := rfl
@[simp] theorem State.acceptAny_host (c : Command) : (s.acceptAny c).host = s.host := rfl
@[simp] theorem State.acceptAny_platform (c : Command) : (s.acceptAny c).platform = s.platform := rfl

/-! ## What the acceptance of a decode clears (R216) -/

@[simp] theorem State.clearDecode_nMax : (s.clearDecode).nMax = s.nMax := rfl
@[simp] theorem State.clearDecode_eMax : (s.clearDecode).eMax = s.eMax := rfl
@[simp] theorem State.clearDecode_done : (s.clearDecode).done = s.done := rfl
@[simp] theorem State.clearDecode_storeValid : (s.clearDecode).storeValid = s.storeValid := rfl
@[simp] theorem State.clearDecode_cancelled : (s.clearDecode).cancelled = s.cancelled := rfl
@[simp] theorem State.clearDecode_evtOvf : (s.clearDecode).evtOvf = s.evtOvf := rfl
@[simp] theorem State.clearDecode_noBaudRx : (s.clearDecode).noBaudRx = s.noBaudRx := rfl
@[simp] theorem State.clearDecode_noBaudTx : (s.clearDecode).noBaudTx = s.noBaudTx := rfl
@[simp] theorem State.clearDecode_cmdOvr : (s.clearDecode).cmdOvr = s.cmdOvr := rfl
@[simp] theorem State.clearDecode_wrIgn : (s.clearDecode).wrIgn = s.wrIgn := rfl
@[simp] theorem State.clearDecode_busErr : (s.clearDecode).busErr = s.busErr := rfl
@[simp] theorem State.clearDecode_loadOvf : (s.clearDecode).loadOvf = s.loadOvf := rfl
@[simp] theorem State.clearDecode_loadMixed : (s.clearDecode).loadMixed = s.loadMixed := rfl
@[simp] theorem State.clearDecode_irqEn : (s.clearDecode).irqEn = s.irqEn := rfl
@[simp] theorem State.clearDecode_cancelReq : (s.clearDecode).cancelReq = s.cancelReq := rfl
@[simp] theorem State.clearDecode_errCode : (s.clearDecode).errCode = s.errCode := rfl
@[simp] theorem State.clearDecode_arg0 : (s.clearDecode).arg0 = s.arg0 := rfl
@[simp] theorem State.clearDecode_result0 : (s.clearDecode).result0 = s.result0 := rfl
@[simp] theorem State.clearDecode_result1 : (s.clearDecode).result1 = s.result1 := rfl
@[simp] theorem State.clearDecode_result2 : (s.clearDecode).result2 = s.result2 := rfl
@[simp] theorem State.clearDecode_progress : (s.clearDecode).progress = 0#7 := rfl
@[simp] theorem State.clearDecode_evtCount : (s.clearDecode).evtCount = 0#32 := rfl
@[simp] theorem State.clearDecode_symCount : (s.clearDecode).symCount = 0#32 := rfl
@[simp] theorem State.clearDecode_errCount : (s.clearDecode).errCount = 0#32 := rfl
@[simp] theorem State.clearDecode_nTrans : (s.clearDecode).nTrans = s.nTrans := rfl
@[simp] theorem State.clearDecode_absLen : (s.clearDecode).absLen = s.absLen := rfl
@[simp] theorem State.clearDecode_trigger : (s.clearDecode).trigger = s.trigger := rfl
@[simp] theorem State.clearDecode_rate : (s.clearDecode).rate = s.rate := rfl
@[simp] theorem State.clearDecode_channels : (s.clearDecode).channels = s.channels := rfl
@[simp] theorem State.clearDecode_trigValid : (s.clearDecode).trigValid = s.trigValid := rfl
@[simp] theorem State.clearDecode_rateValid : (s.clearDecode).rateValid = s.rateValid := rfl
@[simp] theorem State.clearDecode_enMask : (s.clearDecode).enMask = s.enMask := rfl
@[simp] theorem State.clearDecode_cursorEn : (s.clearDecode).cursorEn = s.cursorEn := rfl
@[simp] theorem State.clearDecode_cursorA : (s.clearDecode).cursorA = s.cursorA := rfl
@[simp] theorem State.clearDecode_cursorB : (s.clearDecode).cursorB = s.cursorB := rfl
@[simp] theorem State.clearDecode_pushValue : (s.clearDecode).pushValue = s.pushValue := rfl
@[simp] theorem State.clearDecode_rawCount : (s.clearDecode).rawCount = s.rawCount := rfl
@[simp] theorem State.clearDecode_spiCh : (s.clearDecode).spiCh = s.spiCh := rfl
@[simp] theorem State.clearDecode_spiMode : (s.clearDecode).spiMode = s.spiMode := rfl
@[simp] theorem State.clearDecode_uartCfg : (s.clearDecode).uartCfg = s.uartCfg := rfl
@[simp] theorem State.clearDecode_lines0 : (s.clearDecode).lines0 = s.lines0 := rfl
@[simp] theorem State.clearDecode_lines1 : (s.clearDecode).lines1 = s.lines1 := rfl
@[simp] theorem State.clearDecode_baudRx : (s.clearDecode).baudRx = s.baudRx := rfl
@[simp] theorem State.clearDecode_baudTx : (s.clearDecode).baudTx = s.baudTx := rfl
@[simp] theorem State.clearDecode_mem : (s.clearDecode).mem = s.mem := rfl
@[simp] theorem State.clearDecode_loadMode : (s.clearDecode).loadMode = s.loadMode := rfl
@[simp] theorem State.clearDecode_snap : (s.clearDecode).snap = s.snap := rfl
@[simp] theorem State.clearDecode_seq : (s.clearDecode).seq = s.seq := rfl
@[simp] theorem State.clearDecode_inReset : (s.clearDecode).inReset = s.inReset := rfl
@[simp] theorem State.clearDecode_turn : (s.clearDecode).turn = s.turn := rfl
@[simp] theorem State.clearDecode_readData : (s.clearDecode).readData = s.readData := rfl
@[simp] theorem State.clearDecode_draws : (s.clearDecode).draws = s.draws := rfl
@[simp] theorem State.clearDecode_host : (s.clearDecode).host = s.host := rfl
@[simp] theorem State.clearDecode_platform : (s.clearDecode).platform = s.platform := rfl

/-! ## What the acceptance of DECODE_UART clears (R216) -/

@[simp] theorem State.clearBaud_nMax : (s.clearBaud).nMax = s.nMax := rfl
@[simp] theorem State.clearBaud_eMax : (s.clearBaud).eMax = s.eMax := rfl
@[simp] theorem State.clearBaud_done : (s.clearBaud).done = s.done := rfl
@[simp] theorem State.clearBaud_storeValid : (s.clearBaud).storeValid = s.storeValid := rfl
@[simp] theorem State.clearBaud_cancelled : (s.clearBaud).cancelled = s.cancelled := rfl
@[simp] theorem State.clearBaud_evtOvf : (s.clearBaud).evtOvf = s.evtOvf := rfl
@[simp] theorem State.clearBaud_noBaudRx : (s.clearBaud).noBaudRx = s.noBaudRx := rfl
@[simp] theorem State.clearBaud_noBaudTx : (s.clearBaud).noBaudTx = s.noBaudTx := rfl
@[simp] theorem State.clearBaud_cmdOvr : (s.clearBaud).cmdOvr = s.cmdOvr := rfl
@[simp] theorem State.clearBaud_wrIgn : (s.clearBaud).wrIgn = s.wrIgn := rfl
@[simp] theorem State.clearBaud_busErr : (s.clearBaud).busErr = s.busErr := rfl
@[simp] theorem State.clearBaud_loadOvf : (s.clearBaud).loadOvf = s.loadOvf := rfl
@[simp] theorem State.clearBaud_loadMixed : (s.clearBaud).loadMixed = s.loadMixed := rfl
@[simp] theorem State.clearBaud_irqEn : (s.clearBaud).irqEn = s.irqEn := rfl
@[simp] theorem State.clearBaud_cancelReq : (s.clearBaud).cancelReq = s.cancelReq := rfl
@[simp] theorem State.clearBaud_errCode : (s.clearBaud).errCode = s.errCode := rfl
@[simp] theorem State.clearBaud_arg0 : (s.clearBaud).arg0 = s.arg0 := rfl
@[simp] theorem State.clearBaud_result0 : (s.clearBaud).result0 = s.result0 := rfl
@[simp] theorem State.clearBaud_result1 : (s.clearBaud).result1 = s.result1 := rfl
@[simp] theorem State.clearBaud_result2 : (s.clearBaud).result2 = s.result2 := rfl
@[simp] theorem State.clearBaud_progress : (s.clearBaud).progress = s.progress := rfl
@[simp] theorem State.clearBaud_evtCount : (s.clearBaud).evtCount = s.evtCount := rfl
@[simp] theorem State.clearBaud_symCount : (s.clearBaud).symCount = s.symCount := rfl
@[simp] theorem State.clearBaud_errCount : (s.clearBaud).errCount = s.errCount := rfl
@[simp] theorem State.clearBaud_nTrans : (s.clearBaud).nTrans = s.nTrans := rfl
@[simp] theorem State.clearBaud_absLen : (s.clearBaud).absLen = s.absLen := rfl
@[simp] theorem State.clearBaud_trigger : (s.clearBaud).trigger = s.trigger := rfl
@[simp] theorem State.clearBaud_rate : (s.clearBaud).rate = s.rate := rfl
@[simp] theorem State.clearBaud_channels : (s.clearBaud).channels = s.channels := rfl
@[simp] theorem State.clearBaud_trigValid : (s.clearBaud).trigValid = s.trigValid := rfl
@[simp] theorem State.clearBaud_rateValid : (s.clearBaud).rateValid = s.rateValid := rfl
@[simp] theorem State.clearBaud_enMask : (s.clearBaud).enMask = s.enMask := rfl
@[simp] theorem State.clearBaud_cursorEn : (s.clearBaud).cursorEn = s.cursorEn := rfl
@[simp] theorem State.clearBaud_cursorA : (s.clearBaud).cursorA = s.cursorA := rfl
@[simp] theorem State.clearBaud_cursorB : (s.clearBaud).cursorB = s.cursorB := rfl
@[simp] theorem State.clearBaud_pushValue : (s.clearBaud).pushValue = s.pushValue := rfl
@[simp] theorem State.clearBaud_rawCount : (s.clearBaud).rawCount = s.rawCount := rfl
@[simp] theorem State.clearBaud_spiCh : (s.clearBaud).spiCh = s.spiCh := rfl
@[simp] theorem State.clearBaud_spiMode : (s.clearBaud).spiMode = s.spiMode := rfl
@[simp] theorem State.clearBaud_uartCfg : (s.clearBaud).uartCfg = s.uartCfg := rfl
@[simp] theorem State.clearBaud_lines0 : (s.clearBaud).lines0 = s.lines0 := rfl
@[simp] theorem State.clearBaud_lines1 : (s.clearBaud).lines1 = s.lines1 := rfl
@[simp] theorem State.clearBaud_baudRx : (s.clearBaud).baudRx = 0#32 := rfl
@[simp] theorem State.clearBaud_baudTx : (s.clearBaud).baudTx = 0#32 := rfl
@[simp] theorem State.clearBaud_mem : (s.clearBaud).mem = s.mem := rfl
@[simp] theorem State.clearBaud_loadMode : (s.clearBaud).loadMode = s.loadMode := rfl
@[simp] theorem State.clearBaud_snap : (s.clearBaud).snap = s.snap := rfl
@[simp] theorem State.clearBaud_seq : (s.clearBaud).seq = s.seq := rfl
@[simp] theorem State.clearBaud_inReset : (s.clearBaud).inReset = s.inReset := rfl
@[simp] theorem State.clearBaud_turn : (s.clearBaud).turn = s.turn := rfl
@[simp] theorem State.clearBaud_readData : (s.clearBaud).readData = s.readData := rfl
@[simp] theorem State.clearBaud_draws : (s.clearBaud).draws = s.draws := rfl
@[simp] theorem State.clearBaud_host : (s.clearBaud).host = s.host := rfl
@[simp] theorem State.clearBaud_platform : (s.clearBaud).platform = s.platform := rfl

/-! ## STORE_CLEAR (R115) -/

@[simp] theorem State.clearStore_nMax : (s.clearStore).nMax = s.nMax := rfl
@[simp] theorem State.clearStore_eMax : (s.clearStore).eMax = s.eMax := rfl
@[simp] theorem State.clearStore_done : (s.clearStore).done = s.done := rfl
@[simp] theorem State.clearStore_storeValid : (s.clearStore).storeValid = false := rfl
@[simp] theorem State.clearStore_cancelled : (s.clearStore).cancelled = s.cancelled := rfl
@[simp] theorem State.clearStore_evtOvf : (s.clearStore).evtOvf = s.evtOvf := rfl
@[simp] theorem State.clearStore_noBaudRx : (s.clearStore).noBaudRx = s.noBaudRx := rfl
@[simp] theorem State.clearStore_noBaudTx : (s.clearStore).noBaudTx = s.noBaudTx := rfl
@[simp] theorem State.clearStore_cmdOvr : (s.clearStore).cmdOvr = s.cmdOvr := rfl
@[simp] theorem State.clearStore_wrIgn : (s.clearStore).wrIgn = s.wrIgn := rfl
@[simp] theorem State.clearStore_busErr : (s.clearStore).busErr = s.busErr := rfl
@[simp] theorem State.clearStore_loadOvf : (s.clearStore).loadOvf = false := rfl
@[simp] theorem State.clearStore_loadMixed : (s.clearStore).loadMixed = false := rfl
@[simp] theorem State.clearStore_irqEn : (s.clearStore).irqEn = s.irqEn := rfl
@[simp] theorem State.clearStore_cancelReq : (s.clearStore).cancelReq = s.cancelReq := rfl
@[simp] theorem State.clearStore_errCode : (s.clearStore).errCode = s.errCode := rfl
@[simp] theorem State.clearStore_arg0 : (s.clearStore).arg0 = s.arg0 := rfl
@[simp] theorem State.clearStore_result0 : (s.clearStore).result0 = s.result0 := rfl
@[simp] theorem State.clearStore_result1 : (s.clearStore).result1 = s.result1 := rfl
@[simp] theorem State.clearStore_result2 : (s.clearStore).result2 = s.result2 := rfl
@[simp] theorem State.clearStore_progress : (s.clearStore).progress = s.progress := rfl
@[simp] theorem State.clearStore_evtCount : (s.clearStore).evtCount = 0#32 := rfl
@[simp] theorem State.clearStore_symCount : (s.clearStore).symCount = 0#32 := rfl
@[simp] theorem State.clearStore_errCount : (s.clearStore).errCount = 0#32 := rfl
@[simp] theorem State.clearStore_nTrans : (s.clearStore).nTrans = 0#32 := rfl
@[simp] theorem State.clearStore_absLen : (s.clearStore).absLen = s.absLen := rfl
@[simp] theorem State.clearStore_trigger : (s.clearStore).trigger = s.trigger := rfl
@[simp] theorem State.clearStore_rate : (s.clearStore).rate = s.rate := rfl
@[simp] theorem State.clearStore_channels : (s.clearStore).channels = s.channels := rfl
@[simp] theorem State.clearStore_trigValid : (s.clearStore).trigValid = s.trigValid := rfl
@[simp] theorem State.clearStore_rateValid : (s.clearStore).rateValid = s.rateValid := rfl
@[simp] theorem State.clearStore_enMask : (s.clearStore).enMask = s.enMask := rfl
@[simp] theorem State.clearStore_cursorEn : (s.clearStore).cursorEn = s.cursorEn := rfl
@[simp] theorem State.clearStore_cursorA : (s.clearStore).cursorA = s.cursorA := rfl
@[simp] theorem State.clearStore_cursorB : (s.clearStore).cursorB = s.cursorB := rfl
@[simp] theorem State.clearStore_pushValue : (s.clearStore).pushValue = s.pushValue := rfl
@[simp] theorem State.clearStore_rawCount : (s.clearStore).rawCount = 0#32 := rfl
@[simp] theorem State.clearStore_spiCh : (s.clearStore).spiCh = s.spiCh := rfl
@[simp] theorem State.clearStore_spiMode : (s.clearStore).spiMode = s.spiMode := rfl
@[simp] theorem State.clearStore_uartCfg : (s.clearStore).uartCfg = s.uartCfg := rfl
@[simp] theorem State.clearStore_lines0 : (s.clearStore).lines0 = s.lines0 := rfl
@[simp] theorem State.clearStore_lines1 : (s.clearStore).lines1 = s.lines1 := rfl
@[simp] theorem State.clearStore_baudRx : (s.clearStore).baudRx = s.baudRx := rfl
@[simp] theorem State.clearStore_baudTx : (s.clearStore).baudTx = s.baudTx := rfl
@[simp] theorem State.clearStore_mem : (s.clearStore).mem = s.mem := rfl
@[simp] theorem State.clearStore_loadMode : (s.clearStore).loadMode = .none := rfl
@[simp] theorem State.clearStore_snap : (s.clearStore).snap = s.snap := rfl
@[simp] theorem State.clearStore_seq : (s.clearStore).seq = s.seq := rfl
@[simp] theorem State.clearStore_inReset : (s.clearStore).inReset = s.inReset := rfl
@[simp] theorem State.clearStore_turn : (s.clearStore).turn = s.turn := rfl
@[simp] theorem State.clearStore_readData : (s.clearStore).readData = s.readData := rfl
@[simp] theorem State.clearStore_draws : (s.clearStore).draws = s.draws := rfl
@[simp] theorem State.clearStore_host : (s.clearStore).host = s.host := rfl
@[simp] theorem State.clearStore_platform : (s.clearStore).platform = s.platform := rfl

/-! ## Commit effects (R124) -/

@[simp] theorem State.commit_nMax (len : Word) : (s.commit len).nMax = s.nMax := rfl
@[simp] theorem State.commit_eMax (len : Word) : (s.commit len).eMax = s.eMax := rfl
@[simp] theorem State.commit_done (len : Word) : (s.commit len).done = s.done := rfl
@[simp] theorem State.commit_storeValid (len : Word) : (s.commit len).storeValid = true := rfl
@[simp] theorem State.commit_cancelled (len : Word) : (s.commit len).cancelled = s.cancelled := rfl
@[simp] theorem State.commit_evtOvf (len : Word) : (s.commit len).evtOvf = s.evtOvf := rfl
@[simp] theorem State.commit_noBaudRx (len : Word) : (s.commit len).noBaudRx = s.noBaudRx := rfl
@[simp] theorem State.commit_noBaudTx (len : Word) : (s.commit len).noBaudTx = s.noBaudTx := rfl
@[simp] theorem State.commit_cmdOvr (len : Word) : (s.commit len).cmdOvr = s.cmdOvr := rfl
@[simp] theorem State.commit_wrIgn (len : Word) : (s.commit len).wrIgn = s.wrIgn := rfl
@[simp] theorem State.commit_busErr (len : Word) : (s.commit len).busErr = s.busErr := rfl
@[simp] theorem State.commit_loadOvf (len : Word) : (s.commit len).loadOvf = s.loadOvf := rfl
@[simp] theorem State.commit_loadMixed (len : Word) : (s.commit len).loadMixed = s.loadMixed := rfl
@[simp] theorem State.commit_irqEn (len : Word) : (s.commit len).irqEn = s.irqEn := rfl
@[simp] theorem State.commit_cancelReq (len : Word) : (s.commit len).cancelReq = s.cancelReq := rfl
@[simp] theorem State.commit_errCode (len : Word) : (s.commit len).errCode = s.errCode := rfl
@[simp] theorem State.commit_arg0 (len : Word) : (s.commit len).arg0 = s.arg0 := rfl
@[simp] theorem State.commit_result0 (len : Word) : (s.commit len).result0 = s.result0 := rfl
@[simp] theorem State.commit_result1 (len : Word) : (s.commit len).result1 = s.result1 := rfl
@[simp] theorem State.commit_result2 (len : Word) : (s.commit len).result2 = s.result2 := rfl
@[simp] theorem State.commit_progress (len : Word) : (s.commit len).progress = s.progress := rfl
@[simp] theorem State.commit_evtCount (len : Word) : (s.commit len).evtCount = s.evtCount := rfl
@[simp] theorem State.commit_symCount (len : Word) : (s.commit len).symCount = s.symCount := rfl
@[simp] theorem State.commit_errCount (len : Word) : (s.commit len).errCount = s.errCount := rfl
@[simp] theorem State.commit_nTrans (len : Word) : (s.commit len).nTrans = s.nTrans := rfl
@[simp] theorem State.commit_absLen (len : Word) : (s.commit len).absLen = len := rfl
@[simp] theorem State.commit_trigger (len : Word) : (s.commit len).trigger = s.trigger := rfl
@[simp] theorem State.commit_rate (len : Word) : (s.commit len).rate = s.rate := rfl
@[simp] theorem State.commit_channels (len : Word) : (s.commit len).channels = s.channels := rfl
@[simp] theorem State.commit_trigValid (len : Word) : (s.commit len).trigValid = s.trigValid := rfl
@[simp] theorem State.commit_rateValid (len : Word) : (s.commit len).rateValid = s.rateValid := rfl
@[simp] theorem State.commit_enMask (len : Word) : (s.commit len).enMask = s.enMask := rfl
@[simp] theorem State.commit_cursorEn (len : Word) : (s.commit len).cursorEn = s.cursorEn := rfl
@[simp] theorem State.commit_cursorA (len : Word) : (s.commit len).cursorA = clampCursor len s.cursorA := rfl
@[simp] theorem State.commit_cursorB (len : Word) : (s.commit len).cursorB = clampCursor len s.cursorB := rfl
@[simp] theorem State.commit_pushValue (len : Word) : (s.commit len).pushValue = s.pushValue := rfl
@[simp] theorem State.commit_rawCount (len : Word) : (s.commit len).rawCount = s.rawCount := rfl
@[simp] theorem State.commit_spiCh (len : Word) : (s.commit len).spiCh = s.spiCh := rfl
@[simp] theorem State.commit_spiMode (len : Word) : (s.commit len).spiMode = s.spiMode := rfl
@[simp] theorem State.commit_uartCfg (len : Word) : (s.commit len).uartCfg = s.uartCfg := rfl
@[simp] theorem State.commit_lines0 (len : Word) : (s.commit len).lines0 = s.lines0 := rfl
@[simp] theorem State.commit_lines1 (len : Word) : (s.commit len).lines1 = s.lines1 := rfl
@[simp] theorem State.commit_baudRx (len : Word) : (s.commit len).baudRx = s.baudRx := rfl
@[simp] theorem State.commit_baudTx (len : Word) : (s.commit len).baudTx = s.baudTx := rfl
@[simp] theorem State.commit_mem (len : Word) : (s.commit len).mem = s.mem := rfl
@[simp] theorem State.commit_loadMode (len : Word) : (s.commit len).loadMode = s.loadMode := rfl
@[simp] theorem State.commit_snap (len : Word) : (s.commit len).snap = s.snap := rfl
@[simp] theorem State.commit_seq (len : Word) : (s.commit len).seq = s.seq := rfl
@[simp] theorem State.commit_inReset (len : Word) : (s.commit len).inReset = s.inReset := rfl
@[simp] theorem State.commit_turn (len : Word) : (s.commit len).turn = s.turn := rfl
@[simp] theorem State.commit_readData (len : Word) : (s.commit len).readData = s.readData := rfl
@[simp] theorem State.commit_draws (len : Word) : (s.commit len).draws = s.draws := rfl
@[simp] theorem State.commit_host (len : Word) : (s.commit len).host = s.host := rfl
@[simp] theorem State.commit_platform (len : Word) : (s.commit len).platform = s.platform := rfl

/-! ## Appending a transition (R117, R119) -/

@[simp] theorem State.appendTransition_nMax (v w : Word) : (s.appendTransition v w).nMax = s.nMax := rfl
@[simp] theorem State.appendTransition_eMax (v w : Word) : (s.appendTransition v w).eMax = s.eMax := rfl
@[simp] theorem State.appendTransition_done (v w : Word) : (s.appendTransition v w).done = s.done := rfl
@[simp] theorem State.appendTransition_storeValid (v w : Word) : (s.appendTransition v w).storeValid = s.storeValid :=
  rfl
@[simp] theorem State.appendTransition_cancelled (v w : Word) : (s.appendTransition v w).cancelled = s.cancelled :=
  rfl
@[simp] theorem State.appendTransition_evtOvf (v w : Word) : (s.appendTransition v w).evtOvf = s.evtOvf := rfl
@[simp] theorem State.appendTransition_noBaudRx (v w : Word) : (s.appendTransition v w).noBaudRx = s.noBaudRx := rfl
@[simp] theorem State.appendTransition_noBaudTx (v w : Word) : (s.appendTransition v w).noBaudTx = s.noBaudTx := rfl
@[simp] theorem State.appendTransition_cmdOvr (v w : Word) : (s.appendTransition v w).cmdOvr = s.cmdOvr := rfl
@[simp] theorem State.appendTransition_wrIgn (v w : Word) : (s.appendTransition v w).wrIgn = s.wrIgn := rfl
@[simp] theorem State.appendTransition_busErr (v w : Word) : (s.appendTransition v w).busErr = s.busErr := rfl
@[simp] theorem State.appendTransition_loadOvf (v w : Word) : (s.appendTransition v w).loadOvf = s.loadOvf := rfl
@[simp] theorem State.appendTransition_loadMixed (v w : Word) : (s.appendTransition v w).loadMixed = s.loadMixed :=
  rfl
@[simp] theorem State.appendTransition_irqEn (v w : Word) : (s.appendTransition v w).irqEn = s.irqEn := rfl
@[simp] theorem State.appendTransition_cancelReq (v w : Word) : (s.appendTransition v w).cancelReq = s.cancelReq :=
  rfl
@[simp] theorem State.appendTransition_errCode (v w : Word) : (s.appendTransition v w).errCode = s.errCode := rfl
@[simp] theorem State.appendTransition_arg0 (v w : Word) : (s.appendTransition v w).arg0 = s.arg0 := rfl
@[simp] theorem State.appendTransition_result0 (v w : Word) : (s.appendTransition v w).result0 = s.result0 := rfl
@[simp] theorem State.appendTransition_result1 (v w : Word) : (s.appendTransition v w).result1 = s.result1 := rfl
@[simp] theorem State.appendTransition_result2 (v w : Word) : (s.appendTransition v w).result2 = s.result2 := rfl
@[simp] theorem State.appendTransition_progress (v w : Word) : (s.appendTransition v w).progress = s.progress := rfl
@[simp] theorem State.appendTransition_evtCount (v w : Word) : (s.appendTransition v w).evtCount = s.evtCount := rfl
@[simp] theorem State.appendTransition_symCount (v w : Word) : (s.appendTransition v w).symCount = s.symCount := rfl
@[simp] theorem State.appendTransition_errCount (v w : Word) : (s.appendTransition v w).errCount = s.errCount := rfl
@[simp] theorem State.appendTransition_nTrans (v w : Word) : (s.appendTransition v w).nTrans = s.nTrans + 1#32 := rfl
@[simp] theorem State.appendTransition_absLen (v w : Word) : (s.appendTransition v w).absLen = s.absLen := rfl
@[simp] theorem State.appendTransition_trigger (v w : Word) : (s.appendTransition v w).trigger = s.trigger := rfl
@[simp] theorem State.appendTransition_rate (v w : Word) : (s.appendTransition v w).rate = s.rate := rfl
@[simp] theorem State.appendTransition_channels (v w : Word) : (s.appendTransition v w).channels = s.channels := rfl
@[simp] theorem State.appendTransition_trigValid (v w : Word) : (s.appendTransition v w).trigValid = s.trigValid :=
  rfl
@[simp] theorem State.appendTransition_rateValid (v w : Word) : (s.appendTransition v w).rateValid = s.rateValid :=
  rfl
@[simp] theorem State.appendTransition_enMask (v w : Word) : (s.appendTransition v w).enMask = s.enMask := rfl
@[simp] theorem State.appendTransition_cursorEn (v w : Word) : (s.appendTransition v w).cursorEn = s.cursorEn := rfl
@[simp] theorem State.appendTransition_cursorA (v w : Word) : (s.appendTransition v w).cursorA = s.cursorA := rfl
@[simp] theorem State.appendTransition_cursorB (v w : Word) : (s.appendTransition v w).cursorB = s.cursorB := rfl
@[simp] theorem State.appendTransition_pushValue (v w : Word) : (s.appendTransition v w).pushValue = s.pushValue :=
  rfl
@[simp] theorem State.appendTransition_rawCount (v w : Word) : (s.appendTransition v w).rawCount = s.rawCount := rfl
@[simp] theorem State.appendTransition_spiCh (v w : Word) : (s.appendTransition v w).spiCh = s.spiCh := rfl
@[simp] theorem State.appendTransition_spiMode (v w : Word) : (s.appendTransition v w).spiMode = s.spiMode := rfl
@[simp] theorem State.appendTransition_uartCfg (v w : Word) : (s.appendTransition v w).uartCfg = s.uartCfg := rfl
@[simp] theorem State.appendTransition_lines0 (v w : Word) : (s.appendTransition v w).lines0 = s.lines0 := rfl
@[simp] theorem State.appendTransition_lines1 (v w : Word) : (s.appendTransition v w).lines1 = s.lines1 := rfl
@[simp] theorem State.appendTransition_baudRx (v w : Word) : (s.appendTransition v w).baudRx = s.baudRx := rfl
@[simp] theorem State.appendTransition_baudTx (v w : Word) : (s.appendTransition v w).baudTx = s.baudTx := rfl
@[simp] theorem State.appendTransition_mem (v w : Word) : (s.appendTransition v w).mem = (s.mem.writeWord (transAddr s.nTrans.toNat) v).writeWord (transAddr s.nTrans.toNat + 4) w :=
  rfl
@[simp] theorem State.appendTransition_loadMode (v w : Word) : (s.appendTransition v w).loadMode = s.loadMode := rfl
@[simp] theorem State.appendTransition_snap (v w : Word) : (s.appendTransition v w).snap = s.snap := rfl
@[simp] theorem State.appendTransition_seq (v w : Word) : (s.appendTransition v w).seq = s.seq := rfl
@[simp] theorem State.appendTransition_inReset (v w : Word) : (s.appendTransition v w).inReset = s.inReset := rfl
@[simp] theorem State.appendTransition_turn (v w : Word) : (s.appendTransition v w).turn = s.turn := rfl
@[simp] theorem State.appendTransition_readData (v w : Word) : (s.appendTransition v w).readData = s.readData := rfl
@[simp] theorem State.appendTransition_draws (v w : Word) : (s.appendTransition v w).draws = s.draws := rfl
@[simp] theorem State.appendTransition_host (v w : Word) : (s.appendTransition v w).host = s.host := rfl
@[simp] theorem State.appendTransition_platform (v w : Word) : (s.appendTransition v w).platform = s.platform := rfl

/-! ## A published PROGRESS value (R222) -/

@[simp] theorem State.publishProgress_nMax : (s.publishProgress).nMax = s.nMax := rfl
@[simp] theorem State.publishProgress_eMax : (s.publishProgress).eMax = s.eMax := rfl
@[simp] theorem State.publishProgress_done : (s.publishProgress).done = s.done := rfl
@[simp] theorem State.publishProgress_storeValid : (s.publishProgress).storeValid = s.storeValid := rfl
@[simp] theorem State.publishProgress_cancelled : (s.publishProgress).cancelled = s.cancelled := rfl
@[simp] theorem State.publishProgress_evtOvf : (s.publishProgress).evtOvf = s.evtOvf := rfl
@[simp] theorem State.publishProgress_noBaudRx : (s.publishProgress).noBaudRx = s.noBaudRx := rfl
@[simp] theorem State.publishProgress_noBaudTx : (s.publishProgress).noBaudTx = s.noBaudTx := rfl
@[simp] theorem State.publishProgress_cmdOvr : (s.publishProgress).cmdOvr = s.cmdOvr := rfl
@[simp] theorem State.publishProgress_wrIgn : (s.publishProgress).wrIgn = s.wrIgn := rfl
@[simp] theorem State.publishProgress_busErr : (s.publishProgress).busErr = s.busErr := rfl
@[simp] theorem State.publishProgress_loadOvf : (s.publishProgress).loadOvf = s.loadOvf := rfl
@[simp] theorem State.publishProgress_loadMixed : (s.publishProgress).loadMixed = s.loadMixed := rfl
@[simp] theorem State.publishProgress_irqEn : (s.publishProgress).irqEn = s.irqEn := rfl
@[simp] theorem State.publishProgress_cancelReq : (s.publishProgress).cancelReq = s.cancelReq := rfl
@[simp] theorem State.publishProgress_errCode : (s.publishProgress).errCode = s.errCode := rfl
@[simp] theorem State.publishProgress_arg0 : (s.publishProgress).arg0 = s.arg0 := rfl
@[simp] theorem State.publishProgress_result0 : (s.publishProgress).result0 = s.result0 := rfl
@[simp] theorem State.publishProgress_result1 : (s.publishProgress).result1 = s.result1 := rfl
@[simp] theorem State.publishProgress_result2 : (s.publishProgress).result2 = s.result2 := rfl
@[simp] theorem State.publishProgress_progress : (s.publishProgress).progress = BitVec.ofNat 7 (min 100 (max s.progress.toNat (Config.progressDraw s.draws))) :=
  rfl
@[simp] theorem State.publishProgress_evtCount : (s.publishProgress).evtCount = s.evtCount := rfl
@[simp] theorem State.publishProgress_symCount : (s.publishProgress).symCount = s.symCount := rfl
@[simp] theorem State.publishProgress_errCount : (s.publishProgress).errCount = s.errCount := rfl
@[simp] theorem State.publishProgress_nTrans : (s.publishProgress).nTrans = s.nTrans := rfl
@[simp] theorem State.publishProgress_absLen : (s.publishProgress).absLen = s.absLen := rfl
@[simp] theorem State.publishProgress_trigger : (s.publishProgress).trigger = s.trigger := rfl
@[simp] theorem State.publishProgress_rate : (s.publishProgress).rate = s.rate := rfl
@[simp] theorem State.publishProgress_channels : (s.publishProgress).channels = s.channels := rfl
@[simp] theorem State.publishProgress_trigValid : (s.publishProgress).trigValid = s.trigValid := rfl
@[simp] theorem State.publishProgress_rateValid : (s.publishProgress).rateValid = s.rateValid := rfl
@[simp] theorem State.publishProgress_enMask : (s.publishProgress).enMask = s.enMask := rfl
@[simp] theorem State.publishProgress_cursorEn : (s.publishProgress).cursorEn = s.cursorEn := rfl
@[simp] theorem State.publishProgress_cursorA : (s.publishProgress).cursorA = s.cursorA := rfl
@[simp] theorem State.publishProgress_cursorB : (s.publishProgress).cursorB = s.cursorB := rfl
@[simp] theorem State.publishProgress_pushValue : (s.publishProgress).pushValue = s.pushValue := rfl
@[simp] theorem State.publishProgress_rawCount : (s.publishProgress).rawCount = s.rawCount := rfl
@[simp] theorem State.publishProgress_spiCh : (s.publishProgress).spiCh = s.spiCh := rfl
@[simp] theorem State.publishProgress_spiMode : (s.publishProgress).spiMode = s.spiMode := rfl
@[simp] theorem State.publishProgress_uartCfg : (s.publishProgress).uartCfg = s.uartCfg := rfl
@[simp] theorem State.publishProgress_lines0 : (s.publishProgress).lines0 = s.lines0 := rfl
@[simp] theorem State.publishProgress_lines1 : (s.publishProgress).lines1 = s.lines1 := rfl
@[simp] theorem State.publishProgress_baudRx : (s.publishProgress).baudRx = s.baudRx := rfl
@[simp] theorem State.publishProgress_baudTx : (s.publishProgress).baudTx = s.baudTx := rfl
@[simp] theorem State.publishProgress_mem : (s.publishProgress).mem = s.mem := rfl
@[simp] theorem State.publishProgress_loadMode : (s.publishProgress).loadMode = s.loadMode := rfl
@[simp] theorem State.publishProgress_snap : (s.publishProgress).snap = s.snap := rfl
@[simp] theorem State.publishProgress_seq : (s.publishProgress).seq = s.seq := rfl
@[simp] theorem State.publishProgress_inReset : (s.publishProgress).inReset = s.inReset := rfl
@[simp] theorem State.publishProgress_turn : (s.publishProgress).turn = s.turn := rfl
@[simp] theorem State.publishProgress_readData : (s.publishProgress).readData = s.readData := rfl
@[simp] theorem State.publishProgress_draws : (s.publishProgress).draws = s.draws + 1 := rfl
@[simp] theorem State.publishProgress_host : (s.publishProgress).host = s.host := rfl
@[simp] theorem State.publishProgress_platform : (s.publishProgress).platform = s.platform := rfl

/-! ## The counts of a finished decode (R173, R207) -/

@[simp] theorem State.finalCounts_nMax : (s.finalCounts).nMax = s.nMax := rfl
@[simp] theorem State.finalCounts_eMax : (s.finalCounts).eMax = s.eMax := rfl
@[simp] theorem State.finalCounts_done : (s.finalCounts).done = s.done := rfl
@[simp] theorem State.finalCounts_storeValid : (s.finalCounts).storeValid = s.storeValid := rfl
@[simp] theorem State.finalCounts_cancelled : (s.finalCounts).cancelled = s.cancelled := rfl
@[simp] theorem State.finalCounts_evtOvf : (s.finalCounts).evtOvf = s.evtOvf := rfl
@[simp] theorem State.finalCounts_noBaudRx : (s.finalCounts).noBaudRx = s.noBaudRx := rfl
@[simp] theorem State.finalCounts_noBaudTx : (s.finalCounts).noBaudTx = s.noBaudTx := rfl
@[simp] theorem State.finalCounts_cmdOvr : (s.finalCounts).cmdOvr = s.cmdOvr := rfl
@[simp] theorem State.finalCounts_wrIgn : (s.finalCounts).wrIgn = s.wrIgn := rfl
@[simp] theorem State.finalCounts_busErr : (s.finalCounts).busErr = s.busErr := rfl
@[simp] theorem State.finalCounts_loadOvf : (s.finalCounts).loadOvf = s.loadOvf := rfl
@[simp] theorem State.finalCounts_loadMixed : (s.finalCounts).loadMixed = s.loadMixed := rfl
@[simp] theorem State.finalCounts_irqEn : (s.finalCounts).irqEn = s.irqEn := rfl
@[simp] theorem State.finalCounts_cancelReq : (s.finalCounts).cancelReq = s.cancelReq := rfl
@[simp] theorem State.finalCounts_errCode : (s.finalCounts).errCode = s.errCode := rfl
@[simp] theorem State.finalCounts_arg0 : (s.finalCounts).arg0 = s.arg0 := rfl
@[simp] theorem State.finalCounts_result0 : (s.finalCounts).result0 = s.result0 := rfl
@[simp] theorem State.finalCounts_result1 : (s.finalCounts).result1 = s.result1 := rfl
@[simp] theorem State.finalCounts_result2 : (s.finalCounts).result2 = s.result2 := rfl
@[simp] theorem State.finalCounts_progress : (s.finalCounts).progress = if s.cancelled || s.evtOvf then s.progress else 100#7 :=
  rfl
@[simp] theorem State.finalCounts_evtCount : (s.finalCounts).evtCount = s.evtCount := rfl
@[simp] theorem State.finalCounts_symCount : (s.finalCounts).symCount = BitVec.ofNat 32 (s.records.countP (fun r => !infoIsLine r.2)) :=
  rfl
@[simp] theorem State.finalCounts_errCount : (s.finalCounts).errCount = BitVec.ofNat 32 (s.records.countP (fun r => infoIsError r.2)) :=
  rfl
@[simp] theorem State.finalCounts_nTrans : (s.finalCounts).nTrans = s.nTrans := rfl
@[simp] theorem State.finalCounts_absLen : (s.finalCounts).absLen = s.absLen := rfl
@[simp] theorem State.finalCounts_trigger : (s.finalCounts).trigger = s.trigger := rfl
@[simp] theorem State.finalCounts_rate : (s.finalCounts).rate = s.rate := rfl
@[simp] theorem State.finalCounts_channels : (s.finalCounts).channels = s.channels := rfl
@[simp] theorem State.finalCounts_trigValid : (s.finalCounts).trigValid = s.trigValid := rfl
@[simp] theorem State.finalCounts_rateValid : (s.finalCounts).rateValid = s.rateValid := rfl
@[simp] theorem State.finalCounts_enMask : (s.finalCounts).enMask = s.enMask := rfl
@[simp] theorem State.finalCounts_cursorEn : (s.finalCounts).cursorEn = s.cursorEn := rfl
@[simp] theorem State.finalCounts_cursorA : (s.finalCounts).cursorA = s.cursorA := rfl
@[simp] theorem State.finalCounts_cursorB : (s.finalCounts).cursorB = s.cursorB := rfl
@[simp] theorem State.finalCounts_pushValue : (s.finalCounts).pushValue = s.pushValue := rfl
@[simp] theorem State.finalCounts_rawCount : (s.finalCounts).rawCount = s.rawCount := rfl
@[simp] theorem State.finalCounts_spiCh : (s.finalCounts).spiCh = s.spiCh := rfl
@[simp] theorem State.finalCounts_spiMode : (s.finalCounts).spiMode = s.spiMode := rfl
@[simp] theorem State.finalCounts_uartCfg : (s.finalCounts).uartCfg = s.uartCfg := rfl
@[simp] theorem State.finalCounts_lines0 : (s.finalCounts).lines0 = s.lines0 := rfl
@[simp] theorem State.finalCounts_lines1 : (s.finalCounts).lines1 = s.lines1 := rfl
@[simp] theorem State.finalCounts_baudRx : (s.finalCounts).baudRx = s.baudRx := rfl
@[simp] theorem State.finalCounts_baudTx : (s.finalCounts).baudTx = s.baudTx := rfl
@[simp] theorem State.finalCounts_mem : (s.finalCounts).mem = s.mem := rfl
@[simp] theorem State.finalCounts_loadMode : (s.finalCounts).loadMode = s.loadMode := rfl
@[simp] theorem State.finalCounts_snap : (s.finalCounts).snap = s.snap := rfl
@[simp] theorem State.finalCounts_seq : (s.finalCounts).seq = s.seq := rfl
@[simp] theorem State.finalCounts_inReset : (s.finalCounts).inReset = s.inReset := rfl
@[simp] theorem State.finalCounts_turn : (s.finalCounts).turn = s.turn := rfl
@[simp] theorem State.finalCounts_readData : (s.finalCounts).readData = s.readData := rfl
@[simp] theorem State.finalCounts_draws : (s.finalCounts).draws = s.draws := rfl
@[simp] theorem State.finalCounts_host : (s.finalCounts).host = s.host := rfl
@[simp] theorem State.finalCounts_platform : (s.finalCounts).platform = s.platform := rfl

/-! ## The merge (R204) -/

@[simp] theorem State.merge_nMax : (s.merge).nMax = s.nMax := rfl
@[simp] theorem State.merge_eMax : (s.merge).eMax = s.eMax := rfl
@[simp] theorem State.merge_done : (s.merge).done = s.done := rfl
@[simp] theorem State.merge_storeValid : (s.merge).storeValid = s.storeValid := rfl
@[simp] theorem State.merge_cancelled : (s.merge).cancelled = s.cancelled := rfl
@[simp] theorem State.merge_evtOvf : (s.merge).evtOvf = s.evtOvf := rfl
@[simp] theorem State.merge_noBaudRx : (s.merge).noBaudRx = s.noBaudRx := rfl
@[simp] theorem State.merge_noBaudTx : (s.merge).noBaudTx = s.noBaudTx := rfl
@[simp] theorem State.merge_cmdOvr : (s.merge).cmdOvr = s.cmdOvr := rfl
@[simp] theorem State.merge_wrIgn : (s.merge).wrIgn = s.wrIgn := rfl
@[simp] theorem State.merge_busErr : (s.merge).busErr = s.busErr := rfl
@[simp] theorem State.merge_loadOvf : (s.merge).loadOvf = s.loadOvf := rfl
@[simp] theorem State.merge_loadMixed : (s.merge).loadMixed = s.loadMixed := rfl
@[simp] theorem State.merge_irqEn : (s.merge).irqEn = s.irqEn := rfl
@[simp] theorem State.merge_cancelReq : (s.merge).cancelReq = s.cancelReq := rfl
@[simp] theorem State.merge_errCode : (s.merge).errCode = s.errCode := rfl
@[simp] theorem State.merge_arg0 : (s.merge).arg0 = s.arg0 := rfl
@[simp] theorem State.merge_result0 : (s.merge).result0 = s.result0 := rfl
@[simp] theorem State.merge_result1 : (s.merge).result1 = s.result1 := rfl
@[simp] theorem State.merge_result2 : (s.merge).result2 = s.result2 := rfl
@[simp] theorem State.merge_progress : (s.merge).progress = s.progress := rfl
@[simp] theorem State.merge_evtCount : (s.merge).evtCount = s.evtCount := rfl
@[simp] theorem State.merge_symCount : (s.merge).symCount = s.symCount := rfl
@[simp] theorem State.merge_errCount : (s.merge).errCount = s.errCount := rfl
@[simp] theorem State.merge_nTrans : (s.merge).nTrans = s.nTrans := rfl
@[simp] theorem State.merge_absLen : (s.merge).absLen = s.absLen := rfl
@[simp] theorem State.merge_trigger : (s.merge).trigger = s.trigger := rfl
@[simp] theorem State.merge_rate : (s.merge).rate = s.rate := rfl
@[simp] theorem State.merge_channels : (s.merge).channels = s.channels := rfl
@[simp] theorem State.merge_trigValid : (s.merge).trigValid = s.trigValid := rfl
@[simp] theorem State.merge_rateValid : (s.merge).rateValid = s.rateValid := rfl
@[simp] theorem State.merge_enMask : (s.merge).enMask = s.enMask := rfl
@[simp] theorem State.merge_cursorEn : (s.merge).cursorEn = s.cursorEn := rfl
@[simp] theorem State.merge_cursorA : (s.merge).cursorA = s.cursorA := rfl
@[simp] theorem State.merge_cursorB : (s.merge).cursorB = s.cursorB := rfl
@[simp] theorem State.merge_pushValue : (s.merge).pushValue = s.pushValue := rfl
@[simp] theorem State.merge_rawCount : (s.merge).rawCount = s.rawCount := rfl
@[simp] theorem State.merge_spiCh : (s.merge).spiCh = s.spiCh := rfl
@[simp] theorem State.merge_spiMode : (s.merge).spiMode = s.spiMode := rfl
@[simp] theorem State.merge_uartCfg : (s.merge).uartCfg = s.uartCfg := rfl
@[simp] theorem State.merge_lines0 : (s.merge).lines0 = s.lines0 := rfl
@[simp] theorem State.merge_lines1 : (s.merge).lines1 = s.lines1 := rfl
@[simp] theorem State.merge_baudRx : (s.merge).baudRx = s.baudRx := rfl
@[simp] theorem State.merge_baudTx : (s.merge).baudTx = s.baudTx := rfl
@[simp] theorem State.merge_mem : (s.merge).mem = s.mem.writeRecords 0 (sortRecords s.records) := rfl
@[simp] theorem State.merge_loadMode : (s.merge).loadMode = s.loadMode := rfl
@[simp] theorem State.merge_snap : (s.merge).snap = s.snap := rfl
@[simp] theorem State.merge_seq : (s.merge).seq = s.seq := rfl
@[simp] theorem State.merge_inReset : (s.merge).inReset = s.inReset := rfl
@[simp] theorem State.merge_turn : (s.merge).turn = s.turn := rfl
@[simp] theorem State.merge_readData : (s.merge).readData = s.readData := rfl
@[simp] theorem State.merge_draws : (s.merge).draws = s.draws := rfl
@[simp] theorem State.merge_host : (s.merge).host = s.host := rfl
@[simp] theorem State.merge_platform : (s.merge).platform = s.platform := rfl

/-! ## A read that returns a word (R76) -/

@[simp] theorem State.readReturns_nMax (w : Word) : (s.readReturns w).nMax = s.nMax := rfl
@[simp] theorem State.readReturns_eMax (w : Word) : (s.readReturns w).eMax = s.eMax := rfl
@[simp] theorem State.readReturns_done (w : Word) : (s.readReturns w).done = s.done := rfl
@[simp] theorem State.readReturns_storeValid (w : Word) : (s.readReturns w).storeValid = s.storeValid := rfl
@[simp] theorem State.readReturns_cancelled (w : Word) : (s.readReturns w).cancelled = s.cancelled := rfl
@[simp] theorem State.readReturns_evtOvf (w : Word) : (s.readReturns w).evtOvf = s.evtOvf := rfl
@[simp] theorem State.readReturns_noBaudRx (w : Word) : (s.readReturns w).noBaudRx = s.noBaudRx := rfl
@[simp] theorem State.readReturns_noBaudTx (w : Word) : (s.readReturns w).noBaudTx = s.noBaudTx := rfl
@[simp] theorem State.readReturns_cmdOvr (w : Word) : (s.readReturns w).cmdOvr = s.cmdOvr := rfl
@[simp] theorem State.readReturns_wrIgn (w : Word) : (s.readReturns w).wrIgn = s.wrIgn := rfl
@[simp] theorem State.readReturns_busErr (w : Word) : (s.readReturns w).busErr = s.busErr := rfl
@[simp] theorem State.readReturns_loadOvf (w : Word) : (s.readReturns w).loadOvf = s.loadOvf := rfl
@[simp] theorem State.readReturns_loadMixed (w : Word) : (s.readReturns w).loadMixed = s.loadMixed := rfl
@[simp] theorem State.readReturns_irqEn (w : Word) : (s.readReturns w).irqEn = s.irqEn := rfl
@[simp] theorem State.readReturns_cancelReq (w : Word) : (s.readReturns w).cancelReq = s.cancelReq := rfl
@[simp] theorem State.readReturns_errCode (w : Word) : (s.readReturns w).errCode = s.errCode := rfl
@[simp] theorem State.readReturns_arg0 (w : Word) : (s.readReturns w).arg0 = s.arg0 := rfl
@[simp] theorem State.readReturns_result0 (w : Word) : (s.readReturns w).result0 = s.result0 := rfl
@[simp] theorem State.readReturns_result1 (w : Word) : (s.readReturns w).result1 = s.result1 := rfl
@[simp] theorem State.readReturns_result2 (w : Word) : (s.readReturns w).result2 = s.result2 := rfl
@[simp] theorem State.readReturns_progress (w : Word) : (s.readReturns w).progress = s.progress := rfl
@[simp] theorem State.readReturns_evtCount (w : Word) : (s.readReturns w).evtCount = s.evtCount := rfl
@[simp] theorem State.readReturns_symCount (w : Word) : (s.readReturns w).symCount = s.symCount := rfl
@[simp] theorem State.readReturns_errCount (w : Word) : (s.readReturns w).errCount = s.errCount := rfl
@[simp] theorem State.readReturns_nTrans (w : Word) : (s.readReturns w).nTrans = s.nTrans := rfl
@[simp] theorem State.readReturns_absLen (w : Word) : (s.readReturns w).absLen = s.absLen := rfl
@[simp] theorem State.readReturns_trigger (w : Word) : (s.readReturns w).trigger = s.trigger := rfl
@[simp] theorem State.readReturns_rate (w : Word) : (s.readReturns w).rate = s.rate := rfl
@[simp] theorem State.readReturns_channels (w : Word) : (s.readReturns w).channels = s.channels := rfl
@[simp] theorem State.readReturns_trigValid (w : Word) : (s.readReturns w).trigValid = s.trigValid := rfl
@[simp] theorem State.readReturns_rateValid (w : Word) : (s.readReturns w).rateValid = s.rateValid := rfl
@[simp] theorem State.readReturns_enMask (w : Word) : (s.readReturns w).enMask = s.enMask := rfl
@[simp] theorem State.readReturns_cursorEn (w : Word) : (s.readReturns w).cursorEn = s.cursorEn := rfl
@[simp] theorem State.readReturns_cursorA (w : Word) : (s.readReturns w).cursorA = s.cursorA := rfl
@[simp] theorem State.readReturns_cursorB (w : Word) : (s.readReturns w).cursorB = s.cursorB := rfl
@[simp] theorem State.readReturns_pushValue (w : Word) : (s.readReturns w).pushValue = s.pushValue := rfl
@[simp] theorem State.readReturns_rawCount (w : Word) : (s.readReturns w).rawCount = s.rawCount := rfl
@[simp] theorem State.readReturns_spiCh (w : Word) : (s.readReturns w).spiCh = s.spiCh := rfl
@[simp] theorem State.readReturns_spiMode (w : Word) : (s.readReturns w).spiMode = s.spiMode := rfl
@[simp] theorem State.readReturns_uartCfg (w : Word) : (s.readReturns w).uartCfg = s.uartCfg := rfl
@[simp] theorem State.readReturns_lines0 (w : Word) : (s.readReturns w).lines0 = s.lines0 := rfl
@[simp] theorem State.readReturns_lines1 (w : Word) : (s.readReturns w).lines1 = s.lines1 := rfl
@[simp] theorem State.readReturns_baudRx (w : Word) : (s.readReturns w).baudRx = s.baudRx := rfl
@[simp] theorem State.readReturns_baudTx (w : Word) : (s.readReturns w).baudTx = s.baudTx := rfl
@[simp] theorem State.readReturns_mem (w : Word) : (s.readReturns w).mem = s.mem := rfl
@[simp] theorem State.readReturns_loadMode (w : Word) : (s.readReturns w).loadMode = s.loadMode := rfl
@[simp] theorem State.readReturns_snap (w : Word) : (s.readReturns w).snap = s.snap := rfl
@[simp] theorem State.readReturns_seq (w : Word) : (s.readReturns w).seq = s.seq := rfl
@[simp] theorem State.readReturns_inReset (w : Word) : (s.readReturns w).inReset = s.inReset := rfl
@[simp] theorem State.readReturns_turn (w : Word) : (s.readReturns w).turn = s.turn := rfl
@[simp] theorem State.readReturns_readData (w : Word) : (s.readReturns w).readData = w := rfl
@[simp] theorem State.readReturns_draws (w : Word) : (s.readReturns w).draws = s.draws := rfl
@[simp] theorem State.readReturns_host (w : Word) : (s.readReturns w).host = s.host := rfl
@[simp] theorem State.readReturns_platform (w : Word) : (s.readReturns w).platform = s.platform := rfl

/-! ## A refused read (R72) -/

@[simp] theorem State.readRefused_nMax : (s.readRefused).nMax = s.nMax := rfl
@[simp] theorem State.readRefused_eMax : (s.readRefused).eMax = s.eMax := rfl
@[simp] theorem State.readRefused_done : (s.readRefused).done = s.done := rfl
@[simp] theorem State.readRefused_storeValid : (s.readRefused).storeValid = s.storeValid := rfl
@[simp] theorem State.readRefused_cancelled : (s.readRefused).cancelled = s.cancelled := rfl
@[simp] theorem State.readRefused_evtOvf : (s.readRefused).evtOvf = s.evtOvf := rfl
@[simp] theorem State.readRefused_noBaudRx : (s.readRefused).noBaudRx = s.noBaudRx := rfl
@[simp] theorem State.readRefused_noBaudTx : (s.readRefused).noBaudTx = s.noBaudTx := rfl
@[simp] theorem State.readRefused_cmdOvr : (s.readRefused).cmdOvr = s.cmdOvr := rfl
@[simp] theorem State.readRefused_wrIgn : (s.readRefused).wrIgn = s.wrIgn := rfl
@[simp] theorem State.readRefused_busErr : (s.readRefused).busErr = true := rfl
@[simp] theorem State.readRefused_loadOvf : (s.readRefused).loadOvf = s.loadOvf := rfl
@[simp] theorem State.readRefused_loadMixed : (s.readRefused).loadMixed = s.loadMixed := rfl
@[simp] theorem State.readRefused_irqEn : (s.readRefused).irqEn = s.irqEn := rfl
@[simp] theorem State.readRefused_cancelReq : (s.readRefused).cancelReq = s.cancelReq := rfl
@[simp] theorem State.readRefused_errCode : (s.readRefused).errCode = s.errCode := rfl
@[simp] theorem State.readRefused_arg0 : (s.readRefused).arg0 = s.arg0 := rfl
@[simp] theorem State.readRefused_result0 : (s.readRefused).result0 = s.result0 := rfl
@[simp] theorem State.readRefused_result1 : (s.readRefused).result1 = s.result1 := rfl
@[simp] theorem State.readRefused_result2 : (s.readRefused).result2 = s.result2 := rfl
@[simp] theorem State.readRefused_progress : (s.readRefused).progress = s.progress := rfl
@[simp] theorem State.readRefused_evtCount : (s.readRefused).evtCount = s.evtCount := rfl
@[simp] theorem State.readRefused_symCount : (s.readRefused).symCount = s.symCount := rfl
@[simp] theorem State.readRefused_errCount : (s.readRefused).errCount = s.errCount := rfl
@[simp] theorem State.readRefused_nTrans : (s.readRefused).nTrans = s.nTrans := rfl
@[simp] theorem State.readRefused_absLen : (s.readRefused).absLen = s.absLen := rfl
@[simp] theorem State.readRefused_trigger : (s.readRefused).trigger = s.trigger := rfl
@[simp] theorem State.readRefused_rate : (s.readRefused).rate = s.rate := rfl
@[simp] theorem State.readRefused_channels : (s.readRefused).channels = s.channels := rfl
@[simp] theorem State.readRefused_trigValid : (s.readRefused).trigValid = s.trigValid := rfl
@[simp] theorem State.readRefused_rateValid : (s.readRefused).rateValid = s.rateValid := rfl
@[simp] theorem State.readRefused_enMask : (s.readRefused).enMask = s.enMask := rfl
@[simp] theorem State.readRefused_cursorEn : (s.readRefused).cursorEn = s.cursorEn := rfl
@[simp] theorem State.readRefused_cursorA : (s.readRefused).cursorA = s.cursorA := rfl
@[simp] theorem State.readRefused_cursorB : (s.readRefused).cursorB = s.cursorB := rfl
@[simp] theorem State.readRefused_pushValue : (s.readRefused).pushValue = s.pushValue := rfl
@[simp] theorem State.readRefused_rawCount : (s.readRefused).rawCount = s.rawCount := rfl
@[simp] theorem State.readRefused_spiCh : (s.readRefused).spiCh = s.spiCh := rfl
@[simp] theorem State.readRefused_spiMode : (s.readRefused).spiMode = s.spiMode := rfl
@[simp] theorem State.readRefused_uartCfg : (s.readRefused).uartCfg = s.uartCfg := rfl
@[simp] theorem State.readRefused_lines0 : (s.readRefused).lines0 = s.lines0 := rfl
@[simp] theorem State.readRefused_lines1 : (s.readRefused).lines1 = s.lines1 := rfl
@[simp] theorem State.readRefused_baudRx : (s.readRefused).baudRx = s.baudRx := rfl
@[simp] theorem State.readRefused_baudTx : (s.readRefused).baudTx = s.baudTx := rfl
@[simp] theorem State.readRefused_mem : (s.readRefused).mem = s.mem := rfl
@[simp] theorem State.readRefused_loadMode : (s.readRefused).loadMode = s.loadMode := rfl
@[simp] theorem State.readRefused_snap : (s.readRefused).snap = s.snap := rfl
@[simp] theorem State.readRefused_seq : (s.readRefused).seq = s.seq := rfl
@[simp] theorem State.readRefused_inReset : (s.readRefused).inReset = s.inReset := rfl
@[simp] theorem State.readRefused_turn : (s.readRefused).turn = s.turn := rfl
@[simp] theorem State.readRefused_readData : (s.readRefused).readData = 0#32 := rfl
@[simp] theorem State.readRefused_draws : (s.readRefused).draws = s.draws := rfl
@[simp] theorem State.readRefused_host : (s.readRefused).host = s.host := rfl
@[simp] theorem State.readRefused_platform : (s.readRefused).platform = s.platform := rfl

/-! ## A read that returns a draw (R52) -/

@[simp] theorem State.readDraw_nMax : (s.readDraw).nMax = s.nMax := rfl
@[simp] theorem State.readDraw_eMax : (s.readDraw).eMax = s.eMax := rfl
@[simp] theorem State.readDraw_done : (s.readDraw).done = s.done := rfl
@[simp] theorem State.readDraw_storeValid : (s.readDraw).storeValid = s.storeValid := rfl
@[simp] theorem State.readDraw_cancelled : (s.readDraw).cancelled = s.cancelled := rfl
@[simp] theorem State.readDraw_evtOvf : (s.readDraw).evtOvf = s.evtOvf := rfl
@[simp] theorem State.readDraw_noBaudRx : (s.readDraw).noBaudRx = s.noBaudRx := rfl
@[simp] theorem State.readDraw_noBaudTx : (s.readDraw).noBaudTx = s.noBaudTx := rfl
@[simp] theorem State.readDraw_cmdOvr : (s.readDraw).cmdOvr = s.cmdOvr := rfl
@[simp] theorem State.readDraw_wrIgn : (s.readDraw).wrIgn = s.wrIgn := rfl
@[simp] theorem State.readDraw_busErr : (s.readDraw).busErr = s.busErr := rfl
@[simp] theorem State.readDraw_loadOvf : (s.readDraw).loadOvf = s.loadOvf := rfl
@[simp] theorem State.readDraw_loadMixed : (s.readDraw).loadMixed = s.loadMixed := rfl
@[simp] theorem State.readDraw_irqEn : (s.readDraw).irqEn = s.irqEn := rfl
@[simp] theorem State.readDraw_cancelReq : (s.readDraw).cancelReq = s.cancelReq := rfl
@[simp] theorem State.readDraw_errCode : (s.readDraw).errCode = s.errCode := rfl
@[simp] theorem State.readDraw_arg0 : (s.readDraw).arg0 = s.arg0 := rfl
@[simp] theorem State.readDraw_result0 : (s.readDraw).result0 = s.result0 := rfl
@[simp] theorem State.readDraw_result1 : (s.readDraw).result1 = s.result1 := rfl
@[simp] theorem State.readDraw_result2 : (s.readDraw).result2 = s.result2 := rfl
@[simp] theorem State.readDraw_progress : (s.readDraw).progress = s.progress := rfl
@[simp] theorem State.readDraw_evtCount : (s.readDraw).evtCount = s.evtCount := rfl
@[simp] theorem State.readDraw_symCount : (s.readDraw).symCount = s.symCount := rfl
@[simp] theorem State.readDraw_errCount : (s.readDraw).errCount = s.errCount := rfl
@[simp] theorem State.readDraw_nTrans : (s.readDraw).nTrans = s.nTrans := rfl
@[simp] theorem State.readDraw_absLen : (s.readDraw).absLen = s.absLen := rfl
@[simp] theorem State.readDraw_trigger : (s.readDraw).trigger = s.trigger := rfl
@[simp] theorem State.readDraw_rate : (s.readDraw).rate = s.rate := rfl
@[simp] theorem State.readDraw_channels : (s.readDraw).channels = s.channels := rfl
@[simp] theorem State.readDraw_trigValid : (s.readDraw).trigValid = s.trigValid := rfl
@[simp] theorem State.readDraw_rateValid : (s.readDraw).rateValid = s.rateValid := rfl
@[simp] theorem State.readDraw_enMask : (s.readDraw).enMask = s.enMask := rfl
@[simp] theorem State.readDraw_cursorEn : (s.readDraw).cursorEn = s.cursorEn := rfl
@[simp] theorem State.readDraw_cursorA : (s.readDraw).cursorA = s.cursorA := rfl
@[simp] theorem State.readDraw_cursorB : (s.readDraw).cursorB = s.cursorB := rfl
@[simp] theorem State.readDraw_pushValue : (s.readDraw).pushValue = s.pushValue := rfl
@[simp] theorem State.readDraw_rawCount : (s.readDraw).rawCount = s.rawCount := rfl
@[simp] theorem State.readDraw_spiCh : (s.readDraw).spiCh = s.spiCh := rfl
@[simp] theorem State.readDraw_spiMode : (s.readDraw).spiMode = s.spiMode := rfl
@[simp] theorem State.readDraw_uartCfg : (s.readDraw).uartCfg = s.uartCfg := rfl
@[simp] theorem State.readDraw_lines0 : (s.readDraw).lines0 = s.lines0 := rfl
@[simp] theorem State.readDraw_lines1 : (s.readDraw).lines1 = s.lines1 := rfl
@[simp] theorem State.readDraw_baudRx : (s.readDraw).baudRx = s.baudRx := rfl
@[simp] theorem State.readDraw_baudTx : (s.readDraw).baudTx = s.baudTx := rfl
@[simp] theorem State.readDraw_mem : (s.readDraw).mem = s.mem := rfl
@[simp] theorem State.readDraw_loadMode : (s.readDraw).loadMode = s.loadMode := rfl
@[simp] theorem State.readDraw_snap : (s.readDraw).snap = s.snap := rfl
@[simp] theorem State.readDraw_seq : (s.readDraw).seq = s.seq := rfl
@[simp] theorem State.readDraw_inReset : (s.readDraw).inReset = s.inReset := rfl
@[simp] theorem State.readDraw_turn : (s.readDraw).turn = s.turn := rfl
@[simp] theorem State.readDraw_readData : (s.readDraw).readData = Config.busyRead s.draws := rfl
@[simp] theorem State.readDraw_draws : (s.readDraw).draws = s.draws + 1 := rfl
@[simp] theorem State.readDraw_host : (s.readDraw).host = s.host := rfl
@[simp] theorem State.readDraw_platform : (s.readDraw).platform = s.platform := rfl

end Sys2Proof.Machine
end

