-- ==== Sys2Proof/Laws/Ops.lean ====
section
/-! SUPPORT. For each shared operation of Machine/Ops.lean, Machine/Bus.lean and Machine/Turns.lean, one lemma that says
once everything it can do, so that a proof cites it instead of unfolding the operation. -/

namespace Sys2Proof.Machine

/-! ## Reset memory -/

/-- The memory of the reset state has the canonical form. -/
theorem reset_memory_wf : State.reset.mem.wf = true := rfl

theorem resetWith_memory_wf (n e : Word) : (State.resetWith n e).mem.wf = true := rfl

/-! ## Locks (R49) -/

/-- A busy-locked write either is dropped with WR_IGN or happens. -/
theorem busyLocked_cases (s s' : State) :
    (s.busy = true ∧ busyLocked s s' = { s with wrIgn := true }) ∨ (s.busy = false ∧ busyLocked s s' = s') := by
  unfold busyLocked
  cases s.busy <;> simp

/-- A store-locked write either is dropped with WR_IGN or happens. -/
theorem storeLocked_cases (s s' : State) :
    ((s.busy = true ∨ s.storeValid = true) ∧ storeLocked s s' = { s with wrIgn := true }) ∨
      (s.busy = false ∧ s.storeValid = false ∧ storeLocked s s' = s') := by
  unfold storeLocked
  cases s.busy <;> cases s.storeValid <;> simp

/-! ## Commands -/

/-- One step of a CMD operation, by the agent whose turn it is. -/
theorem commandStep_cases (c : Command) (run : State → State) (s : State) :
    (s.turn = .host ∧ commandStep c run s = .next (s.writeCommand c)) ∨
      (s.turn = .sequencer ∧ commandStep c run s = .next (run s)) := by
  unfold commandStep
  cases h : s.turn <;> simp

/-- A CMD write either is dropped with CMD_OVR or is accepted. -/
theorem writeCommand_cases (c : Command) (s : State) :
    (s.busy = true ∧ s.writeCommand c = { s with cmdOvr := true }) ∨
      (s.busy = false ∧ s.writeCommand c = s.accept c) := by
  unfold State.writeCommand
  cases s.busy <;> simp

/-- Acceptance differs between the commands only in what a decode clears. -/
theorem accept_cases (c : Command) (s : State) :
    (c = .decodeSpi ∧ s.accept c = (s.acceptAny c).clearDecode) ∨
      (c = .decodeUart ∧ s.accept c = (s.acceptAny c).clearDecode.clearBaud) ∨
      (c ≠ .decodeSpi ∧ c ≠ .decodeUart ∧ s.accept c = s.acceptAny c) := by
  cases c <;> simp [State.accept]

/-- A command without iterations completes with OK after its effect, or with its error and no effect. -/
theorem completeWith_cases (body : State → Except ErrCode State) (s : State) :
    (∃ u, body s = .ok u ∧ s.completeWith body = u.complete .ok) ∨
      (∃ e, body s = .error e ∧ s.completeWith body = s.complete e) := by
  unfold State.completeWith
  cases h : body s with
  | ok u => exact .inl ⟨u, rfl, rfl⟩
  | error e => exact .inr ⟨e, rfl, rfl⟩

/-! ## Emission (R172, R205, R221) -/

/-- What one emission can do. -/
theorem emit_cases (s : State) (e : Event) :
    (s.evtOvf = true ∧ s.emit e = s) ∨
      (s.evtOvf = false ∧ s.evtCount = s.eMax ∧ s.emit e = { s with evtOvf := true }) ∨
      (s.evtOvf = false ∧ s.evtCount ≠ s.eMax ∧
        s.emit e =
          { s with mem := s.mem.writeRecord s.evtCount.toNat e.record, evtCount := s.evtCount + 1#32 }) := by
  unfold State.emit
  cases s.evtOvf with
  | true => simp
  | false => by_cases h : s.evtCount = s.eMax <;> simp [h]

/-- An emission touches the event memory, EVT_COUNT and EVT_OVF, and nothing else. -/
theorem emit_shape (s : State) (e : Event) :
    ∃ m n o, s.emit e = { s with mem := m, evtCount := n, evtOvf := o } := by
  obtain ⟨-, h⟩ | ⟨-, -, h⟩ | ⟨-, -, h⟩ := emit_cases s e
  · exact ⟨s.mem, s.evtCount, s.evtOvf, h⟩
  · exact ⟨s.mem, s.evtCount, true, h⟩
  · exact ⟨_, _, s.evtOvf, h⟩

/-- A run of emissions touches the event memory, EVT_COUNT and EVT_OVF, and nothing else. -/
theorem emitAll_shape (s : State) (es : List Event) :
    ∃ m n o, s.emitAll es = { s with mem := m, evtCount := n, evtOvf := o } := by
  induction es generalizing s with
  | nil => exact ⟨s.mem, s.evtCount, s.evtOvf, rfl⟩
  | cons e es ih =>
    obtain ⟨m, n, o, h⟩ := emit_shape s e
    obtain ⟨m', n', o', h'⟩ := ih (s.emit e)
    exact ⟨m', n', o', by rw [State.emitAll, List.foldl_cons]; rw [State.emitAll] at h'; rw [h', h]⟩

/-- Emission keeps the canonical form of memory. -/
theorem emit_wf {s : State} (h : s.mem.wf = true) (e : Event) : (s.emit e).mem.wf = true := by
  obtain ⟨-, h'⟩ | ⟨-, -, h'⟩ | ⟨-, -, h'⟩ := emit_cases s e <;> rw [h']
  · exact h
  · exact h
  · exact Memory.writeRecord_wf h _ _

theorem emitAll_wf {s : State} (h : s.mem.wf = true) (es : List Event) : (s.emitAll es).mem.wf = true := by
  induction es generalizing s with
  | nil => exact h
  | cons e es ih => exact ih (emit_wf h e)

/-- A word below the event window reads the same after any emissions. -/
theorem emitAll_readWord {s : State} (h : s.mem.wf = true) (es : List Event) {x : Nat} (hx : x + 4 ≤ eventAddr 0) :
    (s.emitAll es).mem.readWord x = s.mem.readWord x := by
  induction es generalizing s with
  | nil => rfl
  | cons e es ih =>
    rw [State.emitAll, List.foldl_cons, ← State.emitAll, ih (emit_wf h e)]
    obtain ⟨-, h'⟩ | ⟨-, -, h'⟩ | ⟨-, -, h'⟩ := emit_cases s e <;> rw [h']
    exact Memory.readWord_writeRecord_of_ne h _ (by unfold eventAddr at *; omega)

/-! ## Memory of the load and of the merge -/

/-- Appending a transition keeps the canonical form of memory. -/
theorem appendTransition_wf {s : State} (h : s.mem.wf = true) (v t : Word) :
    (s.appendTransition v t).mem.wf = true :=
  Memory.writeWord_wf (Memory.writeWord_wf h _ _) _ _

/-- The merge keeps the canonical form of memory. -/
theorem merge_wf {s : State} (h : s.mem.wf = true) : s.merge.mem.wf = true := Memory.writeRecords_wf h _ _

/-- A word below the event window reads the same after the merge. -/
theorem merge_readWord {s : State} (h : s.mem.wf = true) {x : Nat} (hx : x + 4 ≤ eventAddr 0) :
    s.merge.mem.readWord x = s.mem.readWord x :=
  Memory.readWord_writeRecords_of_ne h _ (.inl hx)

/-! ## Progress and the turns -/

/-- What the hardware does to PROGRESS before a step: PROGRESS and the draw counter may change, nothing else. -/
theorem hardwarePublishes_cases (s : State) :
    (s.seq.scanning = true ∧ s.hardwarePublishes = s.publishProgress) ∨
      (s.seq.scanning = false ∧ s.hardwarePublishes = s) := by
  unfold State.hardwarePublishes
  cases s.seq.scanning <;> simp

theorem hardwarePublishes_shape (s : State) :
    ∃ p d, s.hardwarePublishes = { s with progress := p, draws := d } := by
  obtain ⟨-, h⟩ | ⟨-, h⟩ := hardwarePublishes_cases s
  · exact ⟨_, _, h⟩
  · exact ⟨s.progress, s.draws, h⟩

/-- A host read changes the read-data latch, the draw counter and BUS_ERR, and nothing else (R76). -/
theorem busRead_shape (size : AccessSize) (addr : Word) (s : State) :
    ∃ w d b, s.busRead size addr = { s with readData := w, draws := d, busErr := b } := by
  have keep : ∀ w, ∃ w' d b, s.readReturns w = { s with readData := w', draws := d, busErr := b } :=
    fun w => ⟨w, s.draws, s.busErr, rfl⟩
  have refuse : ∃ w' d b, s.readRefused = { s with readData := w', draws := d, busErr := b } :=
    ⟨0#32, s.draws, true, rfl⟩
  have draw : ∃ w' d b, s.readDraw = { s with readData := w', draws := d, busErr := b } :=
    ⟨_, _, s.busErr, rfl⟩
  unfold State.busRead
  split
  · exact refuse
  · split
    · unfold State.readRegister
      split
      · exact refuse
      · split
        · exact draw
        · exact keep _
    · split
      · exact keep _
      · split
        · split
          · exact draw
          · exact keep _
        · exact refuse

/-- A dropped write changes BUS_ERR at most (R72). -/
theorem dropWrite_cases (r : WriteReject) (s : State) :
    (r = .readOnlyRegister ∧ s.dropWrite r = s) ∨
      (r ≠ .readOnlyRegister ∧ s.dropWrite r = { s with busErr := true }) := by
  cases r <;> simp [State.dropWrite]

/-! ## The load of a capture file (R137) -/

/-- A load whose text is accepted reports success or the commit's code, by the word of its last read. -/
theorem loadReport_cases (s : State) :
    (s.readData = 0#32 ∧ s.loadReport = .ok ()) ∨
      (s.readData ≠ 0#32 ∧ s.loadReport = .error (.commitFailed s.readData)) := by
  unfold State.loadReport
  by_cases h : s.readData = 0#32 <;> simp [h]

/-- A load either is rejected for its text or reports what its script leaves. -/
theorem loadOutcome_cases (n : Nat) (lines : List TextLine) (run : Script → State) :
    (∃ e, loadFile n lines = .error e ∧ loadOutcome n lines run = .error e) ∨
      (∃ script, loadFile n lines = .ok script ∧ loadOutcome n lines run = (run script).loadReport) := by
  unfold loadOutcome
  cases loadFile n lines <;> simp

end Sys2Proof.Machine
end

