-- ==== Sys2Proof/Laws/PerInstr.lean ====
section
/-! SUPPORT. A statement made per operation: its encoding is an aligned word write to the register block
(spec/30_encoding.md R94, R95, spec/20_memory.md R72, R73). The lemmas are elaborated one after another, which keeps the number of
threads small. -/

set_option Elab.async false

namespace Sys2Proof.Laws.EncodesInRegisterBlock

/-- The encoding is a word access, word-aligned, below 0x100. -/
def Statement (i : Instr) : Prop :=
  (encode i).size = .word ∧ (encode i).addr.toNat % 4 = 0 ∧ (encode i).addr.toNat < registerBlockEnd

/-- A word write at an aligned offset of the register block is such an access. -/
theorem of_wordWrite {i : Instr} {offset : Nat} (d : Word) (h4 : offset % 4 = 0) (hb : offset < registerBlockEnd)
    (h : encode i = wordWrite offset d := by rfl) : Statement i := by
  have hn : (BitVec.ofNat 32 offset).toNat = offset := by
    simp only [registerBlockEnd] at hb
    rw [BitVec.toNat_ofNat, Nat.mod_eq_of_lt (by omega)]
  simp [Statement, h, wordWrite, hn, h4, hb]

theorem nop : Statement .nop := of_wordWrite (offset := cmdOffset) (0#24 ++ 0#8) (by decide) (by decide)
theorem storeClear : Statement .storeClear := of_wordWrite (offset := cmdOffset) (0#24 ++ 1#8) (by decide) (by decide)
theorem storeCommit : Statement .storeCommit := of_wordWrite (offset := cmdOffset) (0#24 ++ 2#8) (by decide) (by decide)
theorem queryIndex : Statement .queryIndex := of_wordWrite (offset := cmdOffset) (0#24 ++ 3#8) (by decide) (by decide)
theorem queryValue : Statement .queryValue := of_wordWrite (offset := cmdOffset) (0#24 ++ 4#8) (by decide) (by decide)
theorem estimateBaud : Statement .estimateBaud := of_wordWrite (offset := cmdOffset) (0#24 ++ 5#8) (by decide) (by decide)
theorem decodeSpi : Statement .decodeSpi := of_wordWrite (offset := cmdOffset) (0#24 ++ 6#8) (by decide) (by decide)
theorem decodeUart : Statement .decodeUart := of_wordWrite (offset := cmdOffset) (0#24 ++ 7#8) (by decide) (by decide)
theorem illegalCmd (opc : BitVec 8) (rsvd : BitVec 24) : Statement (.illegalCmd opc rsvd) := of_wordWrite (offset := cmdOffset) (rsvd ++ opc) (by decide) (by decide)
theorem statusW1c (w : Word) : Statement (.statusW1c w) := of_wordWrite (offset := 0x014) w (by decide) (by decide)
theorem ctrlWr (w : Word) : Statement (.ctrlWr w) := of_wordWrite (offset := 0x018) w (by decide) (by decide)
theorem arg0Wr (w : Word) : Statement (.arg0Wr w) := of_wordWrite (offset := 0x020) w (by decide) (by decide)
theorem stAbslenWr (w : Word) : Statement (.stAbslenWr w) := of_wordWrite (offset := 0x044) w (by decide) (by decide)
theorem stTriggerWr (w : Word) : Statement (.stTriggerWr w) := of_wordWrite (offset := 0x048) w (by decide) (by decide)
theorem stRateWr (w : Word) : Statement (.stRateWr w) := of_wordWrite (offset := 0x04C) w (by decide) (by decide)
theorem stCfgWr (w : Word) : Statement (.stCfgWr w) := of_wordWrite (offset := 0x050) w (by decide) (by decide)
theorem stEnmaskWr (w : Word) : Statement (.stEnmaskWr w) := of_wordWrite (offset := 0x054) w (by decide) (by decide)
theorem cursorCtlWr (w : Word) : Statement (.cursorCtlWr w) := of_wordWrite (offset := 0x058) w (by decide) (by decide)
theorem cursorAWr (w : Word) : Statement (.cursorAWr w) := of_wordWrite (offset := 0x05C) w (by decide) (by decide)
theorem cursorBWr (w : Word) : Statement (.cursorBWr w) := of_wordWrite (offset := 0x060) w (by decide) (by decide)
theorem pushValueWr (w : Word) : Statement (.pushValueWr w) := of_wordWrite (offset := 0x064) w (by decide) (by decide)
theorem pushTs (w : Word) : Statement (.pushTs w) := of_wordWrite (offset := 0x068) w (by decide) (by decide)
theorem rawSample (w : Word) : Statement (.rawSample w) := of_wordWrite (offset := 0x06C) w (by decide) (by decide)
theorem spiChWr (w : Word) : Statement (.spiChWr w) := of_wordWrite (offset := 0x080) w (by decide) (by decide)
theorem spiModeWr (w : Word) : Statement (.spiModeWr w) := of_wordWrite (offset := 0x084) w (by decide) (by decide)
theorem uartCfgWr (w : Word) : Statement (.uartCfgWr w) := of_wordWrite (offset := 0x088) w (by decide) (by decide)
theorem uartLines0Wr (w : Word) : Statement (.uartLines0Wr w) := of_wordWrite (offset := 0x08C) w (by decide) (by decide)
theorem uartLines1Wr (w : Word) : Statement (.uartLines1Wr w) := of_wordWrite (offset := 0x090) w (by decide) (by decide)

end Sys2Proof.Laws.EncodesInRegisterBlock
end

