-- ==== Sys2Proof/Tests/Slice0.lean ====
section
/-! SUPPORT. Tests of the model: the smoke test of `Instr.wellFormed`, one written word for every operation, one step of
every operation with the result that spec/95_test_vectors.md or the cited rule gives, and for every statement with
hypotheses a concrete state that meets them. The theorems are elaborated one after another: each waits for the kernel, and
many at once would ask for more threads than the memory limit allows. -/

set_option Elab.async false

namespace Sys2Proof.Tests

open Sys2Proof Sys2Proof.Machine Sys2Proof.Safety Sys2Proof.Statement

/-! ## Small states -/

/-- The state of an outcome. -/
def after (o : Host.Outcome State Fault Refusal) : State :=
  match o with
  | .next t => t
  | .fault _ | .refused _ => State.reset

/-- A small block just out of reset: N_MAX = 20, E_MAX = 8. -/
def small : State := State.resetWith 20#32 8#32

/-- `small` with entries loaded by push and ABS_LEN written. -/
def loaded (absLen : Word) (es : List (Word × Word)) : State :=
  { es.foldl (fun s e => s.appendTransition e.1 e.2) small with absLen := absLen, loadMode := .push, pushValue := 1#32 }

/-- `loaded` and committed. -/
def committed (absLen : Word) (es : List (Word × Word)) : State := { loaded absLen es with storeValid := true }

/-- The entries of the reference store U1 (spec/95 section 2.3). -/
def entriesU1 : List (Word × Word) :=
  [(1#32, 0#32), (0#32, 20#32), (1#32, 30#32), (0#32, 40#32), (1#32, 90#32), (0#32, 100#32), (1#32, 110#32)]

/-- The store U1, one channel, RxD bound to it, a block that is IDLE. -/
def u1 : State :=
  { committed 200#32 entriesU1 with channels := 1#6, lines0 := { LineBank.reset with byte0 := .ofWord 0x80#32 0 } }

/-- A store of one transition, which has no edge. -/
def still : State := committed 10#32 [(1#32, 0#32)]

/-- One turn of the sequencer with `seq` as the scan state. -/
def turnAt (s : State) (seq : Seq) : State := { s with seq := seq, turn := .sequencer, snap := s.snapshot }

/-- `s` right after the host's write of a command word. -/
def accepted (s : State) (c : Command) : State := s.accept c

/-- `s` in the sequencer's turn with `c` accepted. -/
def running (s : State) (c : Command) : State := { s.accept c with turn := .sequencer }

/-! ## Well-formedness and decoding -/

theorem test_illegalCmd_of_a_defined_word_is_ill_formed : (Instr.illegalCmd 0x05#8 0#24).wellFormed = false := by decide
theorem test_illegalCmd_lowest_reserved_is_well_formed : (Instr.illegalCmd 0x08#8 0#24).wellFormed = true := by decide
theorem test_illegalCmd_rsvd_is_well_formed : (Instr.illegalCmd 0x05#8 1#24).wellFormed = true := by decide

/-- A word write to an offset. -/
def writeAt (offset data : Word) : BusWrite := { size := .word, addr := offset, data := data }

theorem test_decode_nop : decodeWrite (writeAt 0x010#32 0x00000000#32) = .operation .nop := by decide
theorem test_decode_storeClear : decodeWrite (writeAt 0x010#32 0x00000001#32) = .operation .storeClear := by decide
theorem test_decode_storeCommit : decodeWrite (writeAt 0x010#32 0x00000002#32) = .operation .storeCommit := by decide
theorem test_decode_queryIndex : decodeWrite (writeAt 0x010#32 0x00000003#32) = .operation .queryIndex := by decide
theorem test_decode_queryValue : decodeWrite (writeAt 0x010#32 0x00000004#32) = .operation .queryValue := by decide
theorem test_decode_estimateBaud : decodeWrite (writeAt 0x010#32 0x00000005#32) = .operation .estimateBaud := by decide
theorem test_decode_decodeSpi : decodeWrite (writeAt 0x010#32 0x00000006#32) = .operation .decodeSpi := by decide
theorem test_decode_decodeUart : decodeWrite (writeAt 0x010#32 0x00000007#32) = .operation .decodeUart := by decide
theorem test_decode_illegalCmd :
    decodeWrite (writeAt 0x010#32 0x00000105#32) = .operation (.illegalCmd 0x05#8 1#24) := by decide
theorem test_decode_statusW1c : decodeWrite (writeAt 0x014#32 2#32) = .operation (.statusW1c 2#32) := by decide
theorem test_decode_ctrlWr : decodeWrite (writeAt 0x018#32 3#32) = .operation (.ctrlWr 3#32) := by decide
theorem test_decode_arg0Wr : decodeWrite (writeAt 0x020#32 19#32) = .operation (.arg0Wr 19#32) := by decide
theorem test_decode_stAbslenWr : decodeWrite (writeAt 0x044#32 200#32) = .operation (.stAbslenWr 200#32) := by decide
theorem test_decode_stTriggerWr : decodeWrite (writeAt 0x048#32 65#32) = .operation (.stTriggerWr 65#32) := by decide
theorem test_decode_stRateWr : decodeWrite (writeAt 0x04C#32 9#32) = .operation (.stRateWr 9#32) := by decide
theorem test_decode_stCfgWr : decodeWrite (writeAt 0x050#32 0x201#32) = .operation (.stCfgWr 0x201#32) := by decide
theorem test_decode_stEnmaskWr : decodeWrite (writeAt 0x054#32 15#32) = .operation (.stEnmaskWr 15#32) := by decide
theorem test_decode_cursorCtlWr : decodeWrite (writeAt 0x058#32 1#32) = .operation (.cursorCtlWr 1#32) := by decide
theorem test_decode_cursorAWr : decodeWrite (writeAt 0x05C#32 20#32) = .operation (.cursorAWr 20#32) := by decide
theorem test_decode_cursorBWr : decodeWrite (writeAt 0x060#32 109#32) = .operation (.cursorBWr 109#32) := by decide
theorem test_decode_pushValueWr : decodeWrite (writeAt 0x064#32 1#32) = .operation (.pushValueWr 1#32) := by decide
theorem test_decode_pushTs : decodeWrite (writeAt 0x068#32 0x14#32) = .operation (.pushTs 0x14#32) := by decide
theorem test_decode_rawSample : decodeWrite (writeAt 0x06C#32 5#32) = .operation (.rawSample 5#32) := by decide
theorem test_decode_spiChWr :
    decodeWrite (writeAt 0x080#32 0x03010200#32) = .operation (.spiChWr 0x03010200#32) := by decide
theorem test_decode_spiModeWr :
    decodeWrite (writeAt 0x084#32 0x00010800#32) = .operation (.spiModeWr 0x00010800#32) := by decide
theorem test_decode_uartCfgWr :
    decodeWrite (writeAt 0x088#32 0x00000802#32) = .operation (.uartCfgWr 0x00000802#32) := by decide
theorem test_decode_uartLines0Wr :
    decodeWrite (writeAt 0x08C#32 0x00810080#32) = .operation (.uartLines0Wr 0x00810080#32) := by decide
theorem test_decode_uartLines1Wr : decodeWrite (writeAt 0x090#32 0x80#32) = .operation (.uartLines1Wr 0x80#32) := by decide

/-- Refused writes by name (R72, R73; the read-only registers of spec/10 section 2). -/
theorem test_decode_rejects_by_name :
    decodeWrite { size := .half, addr := 0x010#32, data := 0#32 } = .rejected .subWord ∧
      decodeWrite (writeAt 0x012#32 0#32) = .rejected .misaligned ∧
      decodeWrite (writeAt 0x000#32 0#32) = .rejected .readOnlyRegister ∧
      decodeWrite (writeAt 0x00C#32 0#32) = .rejected .reservedOffset ∧
      decodeWrite (writeAt 0x01000000#32 5#32) = .rejected .readOnlyWindow ∧
      decodeWrite (writeAt 0x100#32 0#32) = .rejected .outsideRegions := by decide

/-- Words numbered as the opcode table numbers them: the written word of a CMD row, the offset of an MMIO row. -/
theorem test_table_words :
    decodeTableWord 32 0x00000006 = some .decodeSpi ∧ decodeTableWord 32 0x00000008 = some (.illegalCmd 0x08#8 0#24) ∧
      decodeTableWord 32 0x014 = some (.statusW1c 0#32) ∧ decodeTableWord 32 0x090 = some (.uartLines1Wr 0#32) := by
  decide

/-- A table word placed for the next step is run by it (R224: the acceptance of a NOP). -/
theorem test_step_runs_the_placed_word :
    (after (step (State.reset.withFetchWord 32 0x00000000))).seq = .pending .nop := by decide +kernel

/-! ## One step of every operation -/

/-- R216: acceptance clears DONE; R224: the completion step of a NOP sets it with ERRCODE = OK. -/
theorem test_nop :
    (after (exec .nop { small with done := true })).done = false ∧
      (after (exec .nop (running { small with errCode := .noStore } .nop))).statusWord = 0x2#32 := by decide +kernel

/-- ST-P5. -/
theorem test_storeClear :
    let t := after (exec .storeClear (running u1 .storeClear))
    t.storeValid = false ∧ t.nTrans = 0#32 ∧ t.rawCount = 0#32 ∧ t.absLen = 200#32 ∧ t.channels = 1#6 := by
  decide +kernel

/-- ST-P2 and ST-K1. -/
theorem test_storeCommit :
    let t := after (exec .storeCommit (running { loaded 200#32 entriesU1 with cursorA := 500#32 } .storeCommit))
    t.errCode = .ok ∧ t.storeValid = true ∧ t.nTrans = 7#32 ∧ t.cursorA = 199#32 := by decide +kernel

/-- ST-C3 and ST-C5: a repeated time is FMT_ORDER, a repeated value FMT_DUP. -/
theorem test_storeCommit_rejects :
    (after (exec .storeCommit (running (loaded 200#32 [(1#32, 0#32), (0#32, 0#32), (1#32, 30#32)]) .storeCommit))).errCode =
        .fmtOrder ∧
      (after (exec .storeCommit (running (loaded 200#32 [(1#32, 0#32), (1#32, 20#32)]) .storeCommit))).errCode =
        .fmtDup := by decide +kernel

/-- ST-Q3 and ST-Q5. -/
theorem test_queryIndex :
    (after (exec .queryIndex (running { u1 with arg0 := 20#32 } .queryIndex))).result0 = 1#32 ∧
      (after (exec .queryIndex (running { u1 with arg0 := 200#32 } .queryIndex))).errCode = .range := by decide +kernel

/-- ST-Q6. -/
theorem test_queryValue :
    let t := after (exec .queryValue (running { u1 with arg0 := 95#32, result2 := 7#32 } .queryValue))
    t.result0 = 1#32 ∧ t.result1 = 4#32 ∧ t.result2 = 7#32 := by decide +kernel

/-- B2: a tie goes to the duration encountered first. -/
theorem test_estimateBaud :
    let s := committed 40#32 [(0#32, 0#32), (1#32, 7#32), (0#32, 17#32), (1#32, 27#32), (0#32, 34#32)]
    let t := after (exec .estimateBaud (running { s with arg0 := 1#32 } .estimateBaud))
    t.result0 = 7#32 ∧ t.result1 = 7#32 ∧ t.result2 = 10#32 := by decide +kernel

/-- The first step of S1-a: its first two entries give CSLOW at 10 (E15). -/
theorem test_decodeSpi_first_step :
    let s := { committed 200#32 [(8#32, 0#32), (0#32, 10#32)] with spiCh := .ofWord 0x03010200#32, channels := 4#6 }
    (after (exec .decodeSpi (running s .decodeSpi))).records = [(10#32, 0x810A0000#32)] := by decide +kernel

/-- The last active edge of S1-a (transition 17): accumulators with seven bits of 0xB1 and 0x0F complete both words. -/
theorem test_decodeSpi_completes_a_word :
    let s := { committed 200#32 [(4#32, 0#32), (7#32, 170#32)] with spiCh := .ofWord 0x03010200#32, channels := 4#6 }
    let scan : SpiScan := { next := 1, stop := 2, accMosi := 0x58#16, accMiso := 0x07#16, count := 7 }
    (after (exec .decodeSpi (turnAt s (.spi scan)))).records =
      [(170#32, 0x000800B1#32), (170#32, 0x0009000F#32)] := by decide +kernel

/-- The frame of U1-a: one data symbol 0x41 at 115 and no error (L1.5). -/
theorem test_decodeUart_frame :
    let scan : UartScan := { t0 := 20, t1 := 200, work := [.frame .rxd 0 10 20], baudRx := 10#32, baudTx := 0#32 }
    let t := after (exec .decodeUart (turnAt u1 (.uart scan)))
    t.records = [(115#32, 0x00000041#32)] ∧
      t.seq = .uart { scan with work := [.frame .rxd 0 10 116] } := by decide +kernel

/-- The estimator step that opens the pass of U1-a: BAUD_RX will be 10. -/
theorem test_decodeUart_estimates :
    (after (exec .decodeUart (running u1 .decodeUart))).seq =
      .uart { t0 := 20, t1 := 200, work := [.frame .rxd 0 10 20], baudRx := 10#32, baudTx := 0#32 } := by decide +kernel

/-- E4 (R92): accepted, then completed with ILLEGAL_CMD and no other effect. -/
theorem test_illegalCmd :
    after (exec (.illegalCmd 0x05#8 1#24) (running small (.illegal 0x05#8 1#24))) =
      { running small (.illegal 0x05#8 1#24) with errCode := .illegalCmd, done := true, seq := .idle } := by
  decide +kernel

/-- G13. -/
theorem test_statusW1c :
    after (exec (.statusW1c 0x400#32) { small with busErr := true, wrIgn := true }) = { small with wrIgn := true } := by
  decide +kernel

/-- G15, and the cancel write of a running decode (R26). -/
theorem test_ctrlWr :
    after (exec (.ctrlWr 2#32) small) = small ∧
      (after (exec (.ctrlWr 2#32) (accepted u1 .decodeUart))).cancelReq = true := by decide +kernel

/-- R28 and R49: stored when IDLE, dropped with WR_IGN while BUSY. -/
theorem test_arg0Wr :
    (after (exec (.arg0Wr 9#32) small)).arg0 = 9#32 ∧
      after (exec (.arg0Wr 9#32) (accepted small .nop)) = { accepted small .nop with wrIgn := true } := by decide +kernel

/-- ST-P4. -/
theorem test_stAbslenWr :
    after (exec (.stAbslenWr 300#32) u1) = { u1 with wrIgn := true } ∧
      (after (exec (.stAbslenWr 300#32) small)).absLen = 300#32 := by decide +kernel

/-- R36. -/
theorem test_stTriggerWr : (after (exec (.stTriggerWr 65#32) small)).trigger = 65#32 := by decide +kernel

/-- R37. -/
theorem test_stRateWr : (after (exec (.stRateWr 1000000#32) small)).rate = 1000000#32 := by decide +kernel

/-- G5 and G6. -/
theorem test_stCfgWr :
    ((after (exec (.stCfgWr 0#32) small)).busRead .word 0x050#32).readData = 0x00000001#32 ∧
      ((after (exec (.stCfgWr 0x3FF#32) small)).busRead .word 0x050#32).readData = 0x00000320#32 := by decide +kernel

/-- R39. -/
theorem test_stEnmaskWr : (after (exec (.stEnmaskWr 15#32) small)).enMask = 15#32 := by decide +kernel

/-- R40: bit 0 only. -/
theorem test_cursorCtlWr :
    ((after (exec (.cursorCtlWr 0xFFFFFFFF#32) small)).busRead .word 0x058#32).readData = 1#32 := by decide +kernel

/-- ST-K1: unclamped without a store. -/
theorem test_cursorAWr : (after (exec (.cursorAWr 500#32) small)).cursorA = 500#32 := by decide +kernel

/-- ST-K2. -/
theorem test_cursorBWr : (after (exec (.cursorBWr 1000#32) u1)).cursorB = 199#32 := by decide +kernel

/-- R42. -/
theorem test_pushValueWr : (after (exec (.pushValueWr 1#32) small)).pushValue = 1#32 := by decide +kernel

/-- ST-P1, and the overflow of ST-C11. -/
theorem test_pushTs :
    let t := after (exec (.pushTs 0#32) { small with pushValue := 1#32 })
    let full := after (exec (.pushTs 20#32) { loaded 30#32 [(1#32, 0#32), (0#32, 10#32)] with nMax := 2#32 })
    t.nTrans = 1#32 ∧ t.v 0 = 1#32 ∧ t.t 0 = 0 ∧ t.loadMode = .push ∧ full.loadOvf = true ∧ full.nTrans = 2#32 := by decide +kernel

/-- ST-R3: the first sample 0 is appended; ST-C10: a sample in a push load is a mix. -/
theorem test_rawSample :
    let t := after (exec (.rawSample 0#32) small)
    let mixed := after (exec (.rawSample 5#32) (loaded 30#32 [(1#32, 0#32)]))
    t.nTrans = 1#32 ∧ t.rawCount = 1#32 ∧ t.loadMode = .raw ∧ mixed.loadMixed = true ∧ mixed.nTrans = 1#32 := by decide +kernel

/-- E18: SCK 0, MISO 2, MOSI 1, CS 3. -/
theorem test_spiChWr :
    (after (exec (.spiChWr 0x03010200#32) small)).spiCh = { sck := 0#5, miso := 2#5, mosi := 1#5, cs := 3#5 } := by
  decide +kernel

/-- G7 and G8. -/
theorem test_spiModeWr :
    ((after (exec (.spiModeWr 0x1F00#32) small)).busRead .word 0x084#32).readData = 0x1000#32 ∧
      ((after (exec (.spiModeWr 0x103#32) small)).busRead .word 0x084#32).readData = 0x403#32 := by decide +kernel

/-- G9. -/
theorem test_uartCfgWr :
    let t := after (exec (.uartCfgWr 0x01020A01#32) small)
    (t.busRead .word 0x088#32).readData = 0x01020901#32 ∧
      ((after (exec (.uartCfgWr 0x00030203#32) t)).busRead .word 0x088#32).readData = 0x00020501#32 := by decide +kernel

/-- E17: RxD on channel 0, CTS on channel 1. -/
theorem test_uartLines0Wr :
    (after (exec (.uartLines0Wr 0x00810080#32) small)).lines0 =
      { byte0 := { used := true, ch := 0#5 }, byte1 := .unused, byte2 := { used := true, ch := 1#5 }, byte3 := .unused } := by
  decide +kernel

/-- R54: DTR in byte 0, RI in byte 3. -/
theorem test_uartLines1Wr :
    (after (exec (.uartLines1Wr 0x82000085#32) small)).lines1 =
      { byte0 := { used := true, ch := 5#5 }, byte1 := .unused, byte2 := .unused, byte3 := { used := true, ch := 2#5 } } := by
  decide +kernel

/-! ## Bus reads and the capture file -/

/-- G1, G10, G11 and G12. -/
theorem test_bus_accesses :
    (small.busRead .word 0x000#32).readData = 0x4A4C4143#32 ∧ (small.busRead .word 0x00C#32).busErr = true ∧
      (small.busRead .word 0x016#32).busErr = true ∧
      after (deliver (writeAt 0x01000000#32 5#32) small) = { small with busErr := true } := by decide +kernel

/-- ST-RT: the whole file of U1 with its rate. -/
theorem test_capture_file_round_trip_text :
    { u1 with rate := 1000000#32, rateValid := true }.serialise =
      [";Size: 7", ";Rate: 1000000", ";Channels: 1", ";Compressed: true", ";AbsoluteLength: 200", "00000001@0",
        "00000000@20", "00000001@30", "00000000@40", "00000001@90", "00000000@100", "00000001@110"].map String.toList := by
  decide +kernel

/-- R138, R134: a trigger position and an enabled-channel mask are written too. -/
theorem test_capture_file_header :
    ({ u1 with trigValid := true, trigger := 25#32, enMask := 15#32 }.serialise.drop 3).take 2 =
      [";EnabledChannels: 15", ";TriggerPosition: 25"].map String.toList := by decide +kernel

/-- R137: ERRCODE 9 (FMT_DUP) read at the end of a load is a format error of the load. -/
theorem test_load_reports_commit_error :
    ({ small with errCode := .fmtDup }.busRead .word 0x01C#32).loadReport = .error (.commitFailed 9#32) := rfl

/-- R104, R72: RD of an offset literal, at a reserved offset and at a misaligned one. -/
theorem test_read_of_an_offset_literal :
    let s := { small with host := Script.rdOffset 0x00C }
    let t := { small with host := Script.rdOffset 0x016 }
    step s = .next { small with busErr := true } ∧ step t = .next { small with busErr := true } := ⟨rfl, rfl⟩

/-- R134, R137: a negative Size is a corrupt header line (assumption 15), and Size 0 is out of its bound. -/
theorem test_size_errors :
    loadFile 20 ([";Size: -1"].map String.toList) = .error .corruptHeader ∧
      loadFile 20 ([";Size: 0", ";Rate: 1", ";Channels: 1"].map String.toList) = .error .sizeOutOfBound := ⟨rfl, rfl⟩

/-! ## States that meet the hypotheses of the statements -/

/-- The committed-store invariants in a form that can be evaluated. -/
theorem storeInv_of (s : State)
    (h : 1 ≤ s.nTrans.toNat ∧ s.t 0 = 0 ∧ (∀ i < s.nTrans.toNat, 1 ≤ i → s.t (i - 1) < s.t i) ∧
      (∀ i < s.nTrans.toNat, 1 ≤ i → s.v (i - 1) ≠ s.v i) ∧ s.t (s.nTrans.toNat - 1) ≤ s.abs ∧ 1 ≤ s.abs ∧
      s.cursorA.toNat ≤ s.abs - 1 ∧ s.cursorB.toNat ≤ s.abs - 1) : StoreInv s :=
  ⟨h.1, h.2.1, h.2.2.1, h.2.2.2.1, h.2.2.2.2.1, h.2.2.2.2.2.1, h.2.2.2.2.2.2.1, h.2.2.2.2.2.2.2⟩

/-- The invariant of a small state with a push load, in a form that can be evaluated. -/
theorem inv_of (s : State) (hs : StoreInv s)
    (h : (s.mem.wf = true ∧ 1 ≤ s.nMax.toNat ∧ s.nMax.toNat ≤ 2 ^ 21 ∧ 1 ≤ s.eMax.toNat ∧ s.eMax.toNat ≤ 2 ^ 21 ∧
        s.nTrans.toNat ≤ s.nMax.toNat ∧ s.evtCount.toNat ≤ s.eMax.toNat ∧ s.progress.toNat ≤ 100) ∧
      (1 ≤ s.channels.toNat ∧ s.channels.toNat ≤ 32 ∧ 4 ≤ s.spiMode.bits.toNat ∧ s.spiMode.bits.toNat ≤ 16 ∧
        5 ≤ s.uartCfg.dataBits.toNat ∧ s.uartCfg.dataBits.toNat ≤ 9) ∧
      s.loadMode = .push ∧ s.loadOvf = false ∧ s.loadMixed = false ∧ s.storeValid = true ∧
      (s.busy = true → s.done = false ∧ s.errCode = .ok ∧ s.snap = s.snapshot) ∧ s.cancelReq = false ∧
      s.cancelled = false ∧ s.evtOvf = false ∧ s.inReset = false) : Inv s := by
  obtain ⟨⟨m, n1, n2, e1, e2, hn, he, hp⟩, ⟨c1, c2, b1, b2, d1, d2⟩, lm, lo, lx, sv, hb, cr, ca, eo, ir⟩ := h
  refine ⟨m, ⟨⟨n1, n2⟩, ⟨e1, e2⟩, hn, he, hp, ⟨c1, c2⟩, ⟨b1, b2⟩, ⟨d1, d2⟩⟩, ⟨?_, ?_, fun _ => ⟨lo, lx⟩⟩,
    fun _ => hs, ⟨hb, ?_, ?_, fun _ => ⟨ca, eo⟩, fun _ => sv, ?_⟩⟩
  · simp [lm]
  · simp [lm]
  · simp [cr]
  · simp [ca]
  · simp [ir]

/-- DurationsAreTheGapsBetweenEdges, SpiOutputIsTimeOrdered. -/
theorem witness_storeInv_u1 : StoreInv u1 := storeInv_of _ (by decide +kernel)

theorem witness_storeInv_still : StoreInv still := storeInv_of _ (by decide +kernel)

theorem witness_inv_u1 : Inv u1 := inv_of _ witness_storeInv_u1 (by decide +kernel)

/-- A running decode meets the invariant too. -/
theorem witness_inv_running : Inv (accepted u1 .decodeUart) :=
  inv_of _ (storeInv_of _ (by decide +kernel)) (by decide +kernel)

/-- A host with nothing more to do. -/
theorem onlyWatched_of_empty {s : State} (h : s.host = []) : OnlyWatched s := by simp [OnlyWatched, h]

theorem witness_ready_u1 : ReadyForCommand u1 :=
  ⟨witness_inv_u1, ⟨rfl, rfl⟩, onlyWatched_of_empty rfl, rfl, by decide +kernel⟩

/-- U1 with a host that polls for DONE and then reads EVT_COUNT. -/
def watched : State := { u1 with host := Script.waitDone ++ Script.rd .evtCount }

theorem witness_ready_watched : ReadyForCommand watched :=
  ⟨inv_of _ (storeInv_of _ (by decide +kernel)) (by decide +kernel), ⟨rfl, rfl⟩,
    by simp [OnlyWatched, watched, Script.waitDone, Script.rd, Script.rdOffset, HostOp.now], rfl, by decide +kernel⟩

/-- A raw load of the samples 5, 5, 7 (ST-R1). -/
def rawLoad : State :=
  { ([5#32, 5#32, 7#32] : List Word).foldl (fun s v => s.pushRaw v) small with turn := .sequencer }

theorem witness_rawLoadInv : RawLoadInv rawLoad :=
  ⟨by decide +kernel, by decide +kernel, by decide +kernel, by decide +kernel, by decide +kernel⟩

/-- Encoding statements: a reserved word of each kind is well formed, and a write decodes to an operation. -/
theorem witness_encoding :
    (Instr.illegalCmd 0x08#8 0#24).wellFormed = true ∧ (Instr.illegalCmd 0x00#8 1#24).wellFormed = true ∧
      decodeWrite (writeAt 0x010#32 0xFFFFFFFF#32) = .operation (.illegalCmd 0xFF#8 0xFFFFFF#24) := by decide

/-- Both clauses of StepDeliversTheHostWrite: a write that decodes and one that does not. -/
theorem witness_host_write_steps :
    let s := { small with host := [{ delay := 0, op := .write (writeAt 0x014#32 2#32) }] }
    let r := { small with host := [{ delay := 0, op := .write (writeAt 0x00C#32 2#32) }] }
    s.platform = [] ∧ s.inReset = false ∧ decodeWrite (writeAt 0x014#32 2#32) = .operation (.statusW1c 2#32) ∧
      r.platform = [] ∧ decodeWrite (writeAt 0x00C#32 2#32) = .rejected .reservedOffset := by decide +kernel

/-- Both clauses of StepRunsTheRunningCommand: an empty plan, and a plan whose next operation still waits. -/
theorem witness_sequencer_steps :
    let s := accepted u1 .decodeSpi
    let w := { s with host := [{ delay := 0 + 1, op := .waitDone }] }
    s.platform = [] ∧ s.inReset = false ∧ s.seq.command = some .decodeSpi ∧ s.host = [] ∧
      w.seq.command = some .decodeSpi ∧ w.host = [{ delay := 0 + 1, op := .waitDone }] := by decide +kernel

/-- IdleBlockHoldsItsState. -/
theorem witness_idle_block : small.host = [] ∧ small.platform = [] ∧ small.seq = .idle := by decide

/-- InvariantHoldsAtReset: the least and the greatest capacity. -/
theorem witness_capacities : 1 ≤ (1#32 : Word).toNat ∧ (0x200000#32 : Word).toNat ≤ 2 ^ 21 := by decide

/-- InvariantKeptByEveryStep and CapacitiesAreConstant: a running state of the invariant with a next state. -/
theorem witness_step_from_inv : ∃ t, Inv (accepted u1 .decodeUart) ∧ step (accepted u1 .decodeUart) = .next t :=
  ⟨_, witness_inv_running, rfl⟩

/-- ResetAbandonsTheRunningCommand. -/
theorem witness_reset_abandons :
    let s := { accepted u1 .decodeUart with platform := [{ delay := 0, event := .assert }] }
    s.busy = true ∧ s.platform = [{ delay := 0, event := .assert }] := by decide +kernel

/-- AccessesInResetHaveNoEffect. -/
theorem witness_accesses_in_reset :
    let s := { small with inReset := true, host := [{ delay := 0, op := .write (writeAt 0x010#32 1#32) }] }
    let r := { small with inReset := true, host := [{ delay := 0, op := .read .word 0x014#32 }] }
    s.inReset = true ∧ s.seq = .idle ∧ s.platform = [] ∧ r.inReset = true ∧ r.seq = .idle ∧ r.platform = [] := by decide

/-- CommandWriteIsAcceptedOrDropped, SnapshotClampsTheChannels, LockedWritesAreDropped and the statements about register
writes (WholeWordRegisters, StCfgWrite, CursorWrites, FieldRegisters, SpiModeWrite, UartCfgWrite): an idle and a busy block
in the host's turn, with and without a store. -/
theorem witness_command_and_locks :
    small.turn = .host ∧ small.busy = false ∧ (accepted u1 .nop).turn = .host ∧ (accepted u1 .nop).busy = true ∧
      u1.busy = false ∧ u1.storeValid = true ∧ small.storeValid = false ∧ 1 ≤ u1.channels.toNat := by decide +kernel

/-- CtrlWriteSetsEnableAndRequest: both decodes, a cancel that is not written, and one written while no decode runs. -/
theorem witness_ctrl_write :
    (2#32 : Word).getLsbD 1 = true ∧ (1#32 : Word).getLsbD 1 = false ∧
      (accepted u1 .decodeSpi).seq.command = some .decodeSpi ∧
      (accepted u1 .decodeUart).seq.command = some .decodeUart ∧
      (accepted u1 .nop).seq.command ≠ some .decodeSpi ∧ (accepted u1 .nop).seq.command ≠ some .decodeUart := by
  decide +kernel

/-- The clauses of PushAppendsATransition: overflowed, raw, full and open loads. -/
theorem witness_push_clauses :
    let base := loaded 30#32 [(1#32, 0#32), (0#32, 10#32)]
    base.busy = false ∧ base.storeValid = false ∧ base.mem.wf = true ∧ base.loadOvf = false ∧ base.loadMode ≠ .raw ∧
      base.nTrans ≠ base.nMax ∧ { base with nMax := 2#32 }.nTrans = { base with nMax := 2#32 }.nMax ∧
      { base with loadOvf := true }.loadOvf = true ∧ rawLoad.loadMode = .raw ∧ rawLoad.loadOvf = false ∧
      rawLoad.busy = false ∧ rawLoad.storeValid = false ∧ rawLoad.mem.wf = true := by decide +kernel

/-- The clauses of RawSampleCompresses: a mix, a full RAW_COUNT, an equal sample, a differing one, and a first one, with
and without room. -/
theorem witness_raw_clauses :
    (loaded 30#32 [(1#32, 0#32)]).loadMode = .push ∧ rawLoad.loadMode ≠ .push ∧ rawLoad.loadOvf = false ∧
      { rawLoad with rawCount := 0xFFFFFFFF#32 }.rawCount = 0xFFFFFFFF#32 ∧ rawLoad.rawCount ≠ 0xFFFFFFFF#32 ∧
      rawLoad.nTrans ≠ 0#32 ∧ 7#32 = rawLoad.v (rawLoad.nTrans.toNat - 1) ∧
      5#32 ≠ rawLoad.v (rawLoad.nTrans.toNat - 1) ∧ rawLoad.nTrans ≠ rawLoad.nMax ∧ small.nTrans = 0#32 ∧
      { rawLoad with nMax := 2#32 }.nTrans = { rawLoad with nMax := 2#32 }.nMax := by decide +kernel

/-- NopAndReservedWordComplete, StoreClearEmptiesTheStore, and EstimateBaudAnswers with and without a store. -/
theorem witness_sequencer_turn :
    (running u1 .nop).turn = .sequencer ∧ (running u1 .estimateBaud).storeValid = true ∧
      (running small .estimateBaud).turn = .sequencer ∧ (running small .estimateBaud).storeValid = false := by
  decide +kernel

/-- Every clause of StoreCommitChecksInOrder, with ABS_LEN at both edges of the last check (ST-C2 to ST-C9). -/
theorem witness_commit_clauses :
    let good := loaded 20#32 [(1#32, 0#32), (0#32, 20#32)]
    let order := loaded 30#32 [(1#32, 0#32), (0#32, 0#32)]
    let dup := loaded 30#32 [(1#32, 0#32), (1#32, 20#32)]
    let late := loaded 10#32 [(1#32, 5#32)]
    (u1.storeValid = true ∧ { good with loadOvf := true }.loadOvf = true ∧ { good with loadMixed := true }.loadMixed = true ∧
      small.nTrans.toNat = 0 ∧ small.storeValid = false ∧ small.loadOvf = false ∧ small.loadMixed = false) ∧
    (good.storeValid = false ∧ good.loadOvf = false ∧ good.loadMixed = false ∧ good.nTrans.toNat ≠ 0 ∧
      late.nTrans.toNat ≠ 0 ∧ late.t 0 ≠ 0 ∧ order.t 0 = 0 ∧ ¬order.t (1 - 1) < order.t 1 ∧
      dup.t 0 = 0 ∧ (∀ i < dup.nTrans.toNat, 1 ≤ i → dup.t (i - 1) < dup.t i) ∧ dup.v (1 - 1) = dup.v 1) ∧
    good.t 0 = 0 ∧ (∀ i < good.nTrans.toNat, 1 ≤ i → good.t (i - 1) < good.t i) ∧
      (∀ i < good.nTrans.toNat, 1 ≤ i → good.v (i - 1) ≠ good.v i) ∧ good.loadMode ≠ .raw ∧
      good.absLen.toNat ≠ 0 ∧ good.t (good.nTrans.toNat - 1) ≤ good.absLen.toNat ∧
      (19#32 : Word).toNat < good.t (good.nTrans.toNat - 1) := by decide +kernel

/-- RawLoadAlwaysCommits. -/
theorem witness_raw_load_commits :
    Inv rawLoad ∧ rawLoad.turn = .sequencer ∧ rawLoad.storeValid = false ∧ rawLoad.loadMode = .raw ∧
      rawLoad.loadOvf = false ∧ rawLoad.loadMixed = false := by
  refine ⟨⟨by decide +kernel, ⟨by decide +kernel, by decide +kernel, by decide +kernel, by decide +kernel,
    by decide +kernel, by decide +kernel, by decide +kernel, by decide +kernel⟩,
    ⟨by decide +kernel, fun _ => witness_rawLoadInv, by decide +kernel⟩,
    fun h => absurd h (by decide +kernel), ⟨by decide +kernel, by decide +kernel, by decide +kernel, by decide +kernel,
      by decide +kernel, by decide +kernel⟩⟩, ?_⟩
  decide +kernel

/-- QueriesAnswer: no store, and ARG0 at ABS_LEN and one below it (ST-Q4, ST-Q5). -/
theorem witness_queries :
    StoreInv (running { u1 with arg0 := 199#32 } .queryIndex) ∧
      (running { u1 with arg0 := 199#32 } .queryIndex).snap.arg0.toNat < u1.absLen.toNat ∧
      u1.absLen.toNat ≤ (running { u1 with arg0 := 200#32 } .queryIndex).snap.arg0.toNat ∧
      (running small .queryIndex).storeValid = false :=
  ⟨storeInv_of _ (by decide +kernel), by decide +kernel, by decide +kernel, by decide +kernel⟩

/-- EstimateIsModeMinAndMax (the durations of B1). -/
theorem witness_estimate_of_durations : ([10, 10, 10, 3, 7, 10] : List Nat) ≠ [] := by decide

/-- The least index of a property at 1. -/
theorem leastIndex_one {n : Nat} {p : Nat → Prop} (hn : 1 < n) (hp : p 1) : LeastIndex n p 1 :=
  ⟨Nat.le_refl 1, hn, hp, fun j h1 h2 => absurd h2 (by omega)⟩

/-- Every clause of SpiRegionFollowsTheBound: cursors, a falling edge on /CS, and none with and without a trigger. -/
theorem witness_spi_region :
    let cur := running { u1 with cursorEn := true, cursorB := 199#32 } .decodeSpi
    let fall := running u1 .decodeSpi
    let none0 := running still .decodeSpi
    let trig := running { still with trigValid := true, trigger := 50#32 } .decodeSpi
    (StoreInv cur ∧ cur.snap.cursorB.toNat ≤ cur.absLen.toNat - 1 ∧ cur.snap.cursorEn = true ∧
      IsSampleIndex cur cur.snap.cursorA.toNat 0 ∧ IsSampleIndex cur cur.snap.cursorB.toNat 6) ∧
    (StoreInv fall ∧ fall.snap.cursorEn = false ∧ LeastIndex fall.nv (Falls fall fall.snap.spiCh.cs.toNat) 1) ∧
    (StoreInv none0 ∧ none0.nv = 1 ∧ none0.snap.cursorEn = false ∧ none0.snap.trigValid = false) ∧
    StoreInv trig ∧ trig.nv = 1 ∧ trig.snap.cursorEn = false ∧ trig.snap.trigValid = true ∧
      IsSampleIndex trig (min trig.snap.trigger.toNat (trig.absLen.toNat - 1)) 0 := by
  have idx0 : ∀ n, n = 7 → ∀ (p : Nat → Prop), p 1 → p 2 → p 3 → p 4 → p 5 → p 6 → ∀ j, 0 < j → j < n → p j := by
    intro n hn p h1 h2 h3 h4 h5 h6 j hj hjn
    have : j = 1 ∨ j = 2 ∨ j = 3 ∨ j = 4 ∨ j = 5 ∨ j = 6 := by omega
    rcases this with rfl | rfl | rfl | rfl | rfl | rfl <;> assumption
  refine ⟨⟨storeInv_of _ (by decide +kernel), by decide +kernel, by decide +kernel,
      ⟨by decide +kernel, by decide +kernel, idx0 _ (by decide +kernel) _ (by decide +kernel) (by decide +kernel)
        (by decide +kernel) (by decide +kernel) (by decide +kernel) (by decide +kernel)⟩,
      ⟨by decide +kernel, by decide +kernel, fun j h1 h2 => absurd h2 ?_⟩⟩,
    ⟨storeInv_of _ (by decide +kernel), by decide +kernel,
      leastIndex_one (by decide +kernel) ⟨by decide +kernel, by decide +kernel⟩⟩,
    ⟨storeInv_of _ (by decide +kernel), by decide +kernel, by decide +kernel, by decide +kernel⟩,
    storeInv_of _ (by decide +kernel), by decide +kernel, by decide +kernel, by decide +kernel,
    ⟨by decide +kernel, by decide +kernel, fun j h1 h2 => absurd h2 ?_⟩⟩
  · rw [show State.nTrans _ = 7#32 from rfl]
    simp
    omega
  · rw [show State.nTrans _ = 1#32 from rfl]
    simp
    omega

/-- The clauses of SpiLoopBodySamplesTheEdge: a scan that starts at transition 0; on U1 at its first transition, SCK, MISO, MOSI and /CS on channel 0, which
falls; in mode 1 that is the active edge, with the word complete or not, in mode 0 it is not. -/
theorem witness_spi_loop :
    let m0 := running u1 .decodeSpi
    let m1 := running { u1 with spiMode := .ofWord 0x801#32 } .decodeSpi
    ({ next := 0, stop := 7, accMosi := 0#16, accMiso := 0#16, count := 0 } : SpiScan).next = 0 ∧
      (1 : Nat) ≤ 1 ∧ Falls m0 0 1 ∧ Rises m0 0 2 ∧ ¬Changes m0 3 1 ∧ ¬ActiveEdge m0 1 ∧ ActiveEdge m1 1 ∧
      6 + 1 ≠ m1.snap.spiMode.bits.toNat ∧ 7 + 1 = m1.snap.spiMode.bits.toNat := by
  unfold Falls Rises Changes ActiveEdge Falls Rises
  decide +kernel

/-- SampledBitsEndInTheirPlaces: the longest and the shortest list. -/
theorem witness_sampled_bits : (List.replicate 16 true).length ≤ 16 ∧ ([] : List Bool).length ≤ 16 := by decide

/-- SpiDecodeWritesItsWholeOutput: a ready block with a store and a start point, alone and watched by the host. -/
theorem witness_spi_decode :
    (ReadyForCommand u1 ∧ u1.storeValid = true ∧ u1.host = [] ∧
      (u1.accept .decodeSpi).spiRegion = some { start := 1, stop := 7 }) ∧
    ReadyForCommand watched ∧ watched.storeValid = true ∧
      (watched.accept .decodeSpi).spiRegion = some { start := 1, stop := 7 } :=
  ⟨⟨witness_ready_u1, by decide +kernel, rfl, by decide +kernel⟩, witness_ready_watched, by decide +kernel,
    by decide +kernel⟩

/-- SpiOutputIsTimeOrdered: a region that ends at N. -/
theorem witness_spi_output : StoreInv u1 ∧ ({ start := 1, stop := 7 } : SpiRegion).stop ≤ u1.nTrans.toNat :=
  ⟨witness_storeInv_u1, by decide +kernel⟩

/-- SpiCancelAndCompletionSteps: a poll that sees a request, and both closing states. -/
theorem witness_spi_steps :
    let scan : SpiScan := { next := 1, stop := 7, accMosi := 0#16, accMiso := 0#16, count := 0 }
    let s := { turnAt u1 (.spi scan) with cancelReq := true }
    s.turn = .sequencer ∧ s.seq = .spi scan ∧ scan.next < scan.stop ∧ s.cancelReq = true ∧
      (turnAt u1 .spiClosing).seq = .spiClosing ∧ { scan with next := 7 }.stop ≤ { scan with next := 7 }.next := by
  decide +kernel

/-- SpiCancelAndCompletionSteps: the step that starts the rule, with a region to scan and with an empty one. -/
theorem witness_spi_first_step :
    (SpiScanAt { running u1 .decodeSpi with cancelReq := true }
      { next := 1, stop := 7, accMosi := 0#16, accMiso := 0#16, count := 0 } ∧ 1 < 7) ∧
    SpiScanAt (running { u1 with cursorEn := true, cursorA := 50#32 } .decodeSpi)
      { next := 4 - 1, stop := 0 + 1, accMosi := 0#16, accMiso := 0#16, count := 0 } :=
  ⟨⟨.inr ⟨⟨.decodeSpi, rfl⟩, by decide +kernel, { start := 1, stop := 7 }, by decide +kernel, rfl⟩, by decide⟩,
    .inr ⟨⟨.decodeSpi, rfl⟩, by decide +kernel, { start := 3, stop := 1 }, by decide +kernel, rfl⟩⟩

/-- DecodesReportTheirErrors: no store, and a store without a start point. -/
theorem witness_decode_errors :
    (running small .decodeSpi).seq = .pending .decodeSpi ∧ (running small .decodeSpi).storeValid = false ∧
      (running still .decodeSpi).storeValid = true ∧ (running still .decodeSpi).snap.cursorEn = false ∧
      (running still .decodeSpi).snap.trigValid = false ∧ (running still .decodeSpi).nv = 1 := by decide +kernel

/-- Every clause of UartRegionFollowsTheBound. -/
theorem witness_uart_region :
    let cur := running { u1 with cursorEn := true } .decodeUart
    let trig := running { u1 with trigValid := true, trigger := 5#32 } .decodeUart
    let edge := running u1 .decodeUart
    (cur.snap.cursorEn = true ∧ trig.snap.cursorEn = false ∧ trig.snap.trigValid = true) ∧
    (StoreInv edge ∧ edge.snap.cursorEn = false ∧ edge.snap.trigValid = false ∧
      LeastIndex edge.nv (fun j => ∃ l ∈ edge.snap.usedLines, Changes edge l.2 j) 1) ∧
    StoreInv (running still .decodeUart) ∧ (running still .decodeUart).nv = 1 ∧
      (running still .decodeUart).snap.trigValid = false := by
  refine ⟨by decide +kernel, ⟨storeInv_of _ (by decide +kernel), by decide +kernel, by decide +kernel,
    leastIndex_one (by decide +kernel) ⟨(.rxd, 0), by decide +kernel, ?_⟩⟩, storeInv_of _ (by decide +kernel),
    by decide +kernel, by decide +kernel⟩
  unfold Changes
  decide +kernel

/-- Every clause of DataLineIterationFollowsTheLoop on U1: the span at its boundary and past it, the start edge at 20,
the last stop point at ABS_LEN and below it, a good start bit, and with a bit duration of 30 a bad one (s0 = 35). -/
theorem witness_data_line :
    let s := running u1 .decodeUart
    let cfg := s.snap.uartCfg
    let span := fun bd => (2 * cfg.dataBits.toNat + 2 * cfg.parity.bits + cfg.stop.halves) * bd
    2 * 109 < 2 * 20 + span 10 ∧ 2 * 20 + span 10 ≤ 2 * 110 ∧
      (20 ≤ s.t 1 ∧ s.t 1 < 200 ∧ Changes s 0 1 ∧ (s.v 1).getLsbD 0 = cfg.invert) ∧
      cfg.lastStop 10 (s.t 1 + 10 / 2) < s.absLen.toNat ∧
      { s with absLen := 115#32 }.absLen.toNat ≤ cfg.lastStop 10 (s.t 1 + 10 / 2) ∧
      (s.valueAt (s.t 1 + 10 / 2)).getLsbD 0 = cfg.invert ∧ (s.valueAt (s.t 1 + 30 / 2)).getLsbD 0 ≠ cfg.invert ∧
      (running still .decodeUart).nv = 1 := by
  unfold Changes
  decide +kernel

/-- FrameEventsInOrder on the frame of U1: no parity, a parity bit that matches (odd) and one that does not (even). -/
theorem witness_frame_events :
    let s := running u1 .decodeUart
    let odd := running { u1 with uartCfg := { UartCfg.reset with parity := .odd } } .decodeUart
    let even := running { u1 with uartCfg := { UartCfg.reset with parity := .even } } .decodeUart
    s.snap.uartCfg.parity = .none ∧ odd.snap.uartCfg.parity ≠ .none ∧ even.snap.uartCfg.parity ≠ .none ∧
      odd.dataWord 0 10 25 = 0x41#16 ∧ even.dataWord 0 10 25 = 0x41#16 ∧
      (odd.valueAt 115).getLsbD 0 = parityBit .odd 8 0x41#16 ∧
      (even.valueAt 115).getLsbD 0 ≠ parityBit .even 8 0x41#16 := by decide +kernel

/-- StopSamplePoints: the least bit duration and every stop setting. -/
theorem witness_stop_points :
    (1 : Nat) ≤ 1 ∧ ({ UartCfg.reset with stop := .oneAndHalf } : UartCfg).stop = .oneAndHalf ∧
      ({ UartCfg.reset with stop := .two } : UartCfg).stop = .two ∧ UartCfg.reset.stop = .one := by decide

/-- The clauses of ControlLineStepNamesTheLevel: a fall, a rise and no change, with room for one more record. -/
theorem witness_control_line :
    let item : UartItem := .ctrl .cts 0 1
    let scan : UartScan := { t0 := 0, t1 := 200, work := [item], baudRx := 0#32, baudTx := 0#32 }
    let s := { turnAt u1 (.uart scan) with evtCount := 7#32 }
    s.turn = .sequencer ∧ s.seq = .uart scan ∧ scan.work = item :: [] ∧ s.cancelReq = false ∧ s.evtOvf = false ∧
      s.evtCount.toNat < s.eMax.toNat ∧ s.mem.wf = true ∧ Falls s 0 1 ∧ Rises s 0 2 ∧ ¬Changes s 3 1 := by
  unfold Falls Rises Changes
  decide +kernel

/-- Both clauses of EstimatorStepKeepsTheBitDuration, with a bit duration of 10 and one of 0. -/
theorem witness_estimator_step :
    let rx : UartScan := { t0 := 0, t1 := 200, work := [.estimate .rxd 0], baudRx := 0#32, baudTx := 0#32 }
    let tx : UartScan := { rx with work := [.estimate .txd 3] }
    (turnAt u1 (.uart rx)).turn = .sequencer ∧ (turnAt u1 (.uart rx)).seq = .uart rx ∧
      rx.work = .estimate .rxd 0 :: [] ∧ tx.work = .estimate .txd 3 :: [] ∧
      (estimateOf (u1.durations (1#32 <<< 0))).best = 10 ∧ (estimateOf (u1.durations (1#32 <<< 3))).best = 0 := by
  decide +kernel

/-- ControlLineStepNamesTheLevel, EstimatorStepKeepsTheBitDuration and UartCancelMergeAndCompletionSteps in the step that
starts the rule: the first work is RxD's, TxD's or a control line's, or none. -/
theorem witness_uart_first_step :
    let tx := running { u1 with lines0 := .ofWord 0x8000#32 } .decodeUart
    let cts := running { u1 with lines0 := .ofWord 0x800000#32 } .decodeUart
    UartScanAt (running u1 .decodeUart) (running u1 .decodeUart).uartScan ∧
      (running u1 .decodeUart).uartScan.work = .estimate .rxd 0 :: [] ∧
      tx.uartScan.work = .estimate .txd 0 :: [] ∧
      cts.uartScan.work = .ctrl .cts 0 1 :: [2, 3, 4, 5, 6].map (UartItem.ctrl .cts 0) ∧
      (running still .decodeUart).uartScan.work = [] :=
  ⟨.inr ⟨⟨.decodeUart, rfl⟩, by decide +kernel, rfl⟩, by decide +kernel, by decide +kernel, by decide +kernel,
    by decide +kernel⟩

/-- MergeSortsStablyByTime. -/
theorem witness_merge : u1.mem.wf = true := by decide +kernel

/-- The clauses of UartCancelMergeAndCompletionSteps. -/
theorem witness_uart_steps :
    let scan : UartScan := { t0 := 0, t1 := 200, work := [.frame .rxd 0 10 20], baudRx := 0#32, baudTx := 0#32 }
    let s := { turnAt u1 (.uart scan) with cancelReq := true }
    s.turn = .sequencer ∧ s.seq = .uart scan ∧ scan.work = .frame .rxd 0 10 20 :: [] ∧ s.cancelReq = true ∧
      { scan with work := [] }.work = [] ∧ (turnAt u1 (.uartClosing 10#32 0#32)).seq = .uartClosing 10#32 0#32 := by
  decide +kernel

/-- U1 with RxD and TxD both bound to channel 0. -/
def bothLines : State := { u1 with lines0 := .ofWord 0x8080#32 }

/-- UartDecodeMergesItsWholeOutput: a ready block with a store; RxD bound and TxD not; both bound, and the one event of
the RxD pass fits; and RxD not bound. -/
theorem witness_uart_decode :
    (ReadyForCommand u1 ∧ u1.storeValid = true ∧ (Role.rxd, 0) ∈ (u1.accept .decodeUart).snap.usedLines ∧
      (u1.accept .decodeUart).snap.usedLines.all (fun l => l.1 != .txd) = true) ∧
    (ReadyForCommand bothLines ∧ bothLines.storeValid = true ∧
      (Role.txd, 0) ∈ (bothLines.accept .decodeUart).snap.usedLines ∧
      (rxdOutput (bothLines.accept .decodeUart)).length ≤ bothLines.eMax.toNat) ∧
    ReadyForCommand still ∧ still.storeValid = true ∧ (still.accept .decodeUart).snap.usedLines = [] :=
  ⟨⟨witness_ready_u1, by decide +kernel, by decide +kernel, by decide +kernel⟩,
    ⟨⟨inv_of _ (storeInv_of _ (by decide +kernel)) (by decide +kernel), ⟨rfl, rfl⟩, onlyWatched_of_empty rfl, rfl, by decide +kernel⟩,
      by decide +kernel, by decide +kernel, by decide +kernel⟩,
    ⟨inv_of _ witness_storeInv_still (by decide +kernel), ⟨rfl, rfl⟩, onlyWatched_of_empty rfl, rfl, by decide +kernel⟩,
    by decide +kernel, by decide +kernel⟩

/-- Entries of a line with two frames of 0x41 (U1 and the same again 100 later), E_MAX = 1. -/
def twoFrames : State :=
  { committed 300#32
      [(1#32, 0#32), (0#32, 20#32), (1#32, 30#32), (0#32, 40#32), (1#32, 90#32), (0#32, 100#32), (1#32, 110#32),
        (0#32, 130#32), (1#32, 140#32), (0#32, 150#32), (1#32, 200#32), (0#32, 210#32), (1#32, 220#32)] with
    eMax := 1#32, lines0 := .ofWord 0x8080#32 }

/-- UartDecodeMergesItsWholeOutput: an RxD pass that overflows the event memory. -/
theorem witness_uart_overflow :
    ReadyForCommand twoFrames ∧ twoFrames.storeValid = true ∧
      twoFrames.eMax.toNat < (rxdOutput (twoFrames.accept .decodeUart)).length :=
  ⟨⟨inv_of _ (storeInv_of _ (by decide +kernel)) (by decide +kernel), ⟨rfl, rfl⟩, onlyWatched_of_empty rfl, rfl, by decide +kernel⟩,
    by decide +kernel, by decide +kernel⟩

/-- FieldRegistersStoreTheirFields: both UART_LINES writes complete one after the other. -/
theorem witness_lines_writes :
    ∃ t u, small.busy = false ∧ exec (.uartLines0Wr 0x00810080#32) small = .next t ∧
      exec (.uartLines1Wr 0x80#32) t = .next u :=
  ⟨_, _, by decide +kernel, rfl, rfl⟩

/-- ReadOnlyRegistersReadTheirState: an idle and a busy block, and the first and the last count. -/
theorem witness_register_reads :
    small.busy = false ∧ (accepted u1 .nop).busy = true ∧ 0x034#32 ∈ [0x034#32, 0x038#32, 0x03C#32] ∧
      0x03C#32 ∈ [0x034#32, 0x038#32, 0x03C#32] := by decide +kernel

/-- EveryCommandCompletes. -/
theorem witness_command_completes :
    Inv (accepted u1 .decodeUart) ∧ NoReset (accepted u1 .decodeUart) ∧ (accepted u1 .decodeUart).busy = true :=
  ⟨witness_inv_running, ⟨rfl, rfl⟩, by decide +kernel⟩

/-- ProgressNeverFalls: the estimator step of a decode that goes on. -/
theorem witness_progress :
    let s := accepted u1 .decodeUart
    ∃ t, s.progress.toNat ≤ 100 ∧ s.platform = [] ∧ step s = .next t ∧ t.busy = true ∧
      s.seq.command = t.seq.command ∧ s.seq.isDecode = true :=
  ⟨after (step (accepted u1 .decodeUart)), by decide +kernel, rfl, rfl, by decide +kernel, by decide +kernel,
    by decide +kernel⟩

/-- InterruptFollowsDone: an acceptance, a clear of DONE and a clear of IRQ_EN. -/
theorem witness_interrupt :
    small.turn = .host ∧ small.busy = false ∧ exec .nop small = .next (small.accept .nop) ∧
      (2#32 : Word).getLsbD 1 = true ∧ (2#32 : Word).getLsbD 0 = false :=
  ⟨rfl, by decide, rfl, by decide, by decide⟩

/-- Every way in which RefusedAccessesOnlySetBusError refuses an access, at the edges of the regions. -/
theorem witness_refused_accesses :
    refusedAccess .byte 0x000 ∧ refusedAccess .word 0x016 ∧ refusedAccess .word 0x00C ∧ refusedAccess .word 0x0FC ∧
      refusedAccess .word 0x100 ∧ refusedAccess .word 0x03000000 ∧ 0x01000000 ≤ (0x02FFFFFC#32 : Word).toNat ∧
      (0x02FFFFFC#32 : Word).toNat < 0x03000000 ∧ (0x098 : Nat) ∈ readOnlyOffsets := by
  unfold refusedAccess reservedOffset outsideRegions
  refine ⟨.inl (by decide), .inr (.inl (by decide)), .inr (.inr (.inl (by decide))), .inr (.inr (.inl (by decide))),
    .inr (.inr (.inr (by decide))), .inr (.inr (.inr (by decide))), by decide, by decide, by decide⟩

/-- WindowsReadTheValidEntries: the last valid entry of both windows and the first one past it. -/
theorem witness_windows :
    let s := { u1 with evtCount := 1#32 }
    (6 : Nat) < 2 ^ 21 ∧ 6 < s.nTrans.toNat ∧ s.nTrans.toNat ≤ 7 ∧ s.busy = false ∧ 0 < s.evtCount.toNat ∧
      s.evtCount.toNat ≤ 1 ∧ (accepted u1 .decodeSpi).busy = true := by decide +kernel

/-- SerialisedStoreLoadsBack. -/
theorem witness_serialised_store :
    Inv u1 ∧ u1.storeValid = true ∧ small.errCode = .ok ∧ { small with errCode := .fmtDup }.errCode ≠ .ok :=
  ⟨witness_inv_u1, by decide +kernel, rfl, by decide⟩

/-- SerialisedStoreLoadsBack: a file that loads to a script. -/
theorem witness_loaded_file : ∃ script, loadFile 20 u1.serialise = .ok script :=
  ⟨_, rfl⟩

end Sys2Proof.Tests
end

section
/-! SUPPORT. Rules shared by the proofs about single registers: a lock that holds or not (spec/10_state.md R49), a host
read of a register (R52, spec/20_memory.md R76), the arms of `exec` for the register writes (R94), and the fields of a
register word as numbers and under a mask. -/

namespace Sys2Proof.Machine

/-! ## Locks (R49) -/

theorem busyLocked_of_busy {s : State} (h : s.busy = true) (s' : State) :
    busyLocked s s' = { s with wrIgn := true } := by
  simp [busyLocked, h]

theorem busyLocked_of_idle {s : State} (h : s.busy = false) (s' : State) : busyLocked s s' = s' := by
  simp [busyLocked, h]

theorem storeLocked_of_locked {s : State} (h : s.busy = true ∨ s.storeValid = true) (s' : State) :
    storeLocked s s' = { s with wrIgn := true } :=
  if_pos (by simpa using h)

theorem storeLocked_of_free {s : State} (hb : s.busy = false) (hv : s.storeValid = false) (s' : State) :
    storeLocked s s' = s' := by
  simp [storeLocked, hb, hv]

/-! ## Register writes (R94) -/

section
variable (w : Word) (s : State)

theorem exec_statusW1c :
    exec (.statusW1c w) s = .next
      { s with done := w1c s.done (w.getLsbD 1), cmdOvr := w1c s.cmdOvr (w.getLsbD 8),
               wrIgn := w1c s.wrIgn (w.getLsbD 9), busErr := w1c s.busErr (w.getLsbD 10) } := rfl

theorem exec_ctrlWr :
    exec (.ctrlWr w) s = .next
      { s with irqEn := w.getLsbD 0, cancelReq := s.cancelReq || (w.getLsbD 1 && s.seq.isDecode) } := rfl

theorem exec_arg0Wr : exec (.arg0Wr w) s = .next (busyLocked s { s with arg0 := w }) := rfl

theorem exec_stAbslenWr : exec (.stAbslenWr w) s = .next (storeLocked s { s with absLen := w }) := rfl

theorem exec_stTriggerWr : exec (.stTriggerWr w) s = .next (storeLocked s { s with trigger := w }) := rfl

theorem exec_stRateWr : exec (.stRateWr w) s = .next (storeLocked s { s with rate := w }) := rfl

theorem exec_stCfgWr :
    exec (.stCfgWr w) s = .next (storeLocked s
      { s with channels := channelsOf w, trigValid := w.getLsbD 8, rateValid := w.getLsbD 9 }) := rfl

theorem exec_stEnmaskWr : exec (.stEnmaskWr w) s = .next (storeLocked s { s with enMask := w }) := rfl

theorem exec_cursorCtlWr :
    exec (.cursorCtlWr w) s = .next (busyLocked s { s with cursorEn := w.getLsbD 0 }) := rfl

theorem exec_cursorAWr :
    exec (.cursorAWr w) s = .next (busyLocked s { s with cursorA := s.cursorValue w }) := rfl

theorem exec_cursorBWr :
    exec (.cursorBWr w) s = .next (busyLocked s { s with cursorB := s.cursorValue w }) := rfl

theorem exec_pushValueWr : exec (.pushValueWr w) s = .next (storeLocked s { s with pushValue := w }) := rfl

theorem exec_spiChWr : exec (.spiChWr w) s = .next (busyLocked s { s with spiCh := .ofWord w }) := rfl

theorem exec_spiModeWr : exec (.spiModeWr w) s = .next (busyLocked s { s with spiMode := .ofWord w }) := rfl

theorem exec_uartCfgWr :
    exec (.uartCfgWr w) s = .next (busyLocked s { s with uartCfg := s.uartCfg.write w }) := rfl

theorem exec_uartLines0Wr : exec (.uartLines0Wr w) s = .next (busyLocked s { s with lines0 := .ofWord w }) := rfl

theorem exec_uartLines1Wr : exec (.uartLines1Wr w) s = .next (busyLocked s { s with lines1 := .ofWord w }) := rfl

end

/-- Every write of R49's busy-locked list stands under the busy lock. -/
theorem exec_of_mem_busyLockedWrites {w : Word} {i : Instr} (h : i ∈ Statement.busyLockedWrites w) (s : State) :
    ∃ s', exec i s = .next (busyLocked s s') := by
  simp only [Statement.busyLockedWrites, List.mem_cons, List.not_mem_nil, or_false] at h
  obtain rfl | rfl | rfl | rfl | rfl | rfl | rfl | rfl | rfl := h <;> exact ⟨_, rfl⟩

/-- Every write of R49's store-locked list stands under the store lock. -/
theorem exec_of_mem_storeLockedWrites {w : Word} {i : Instr} (h : i ∈ Statement.storeLockedWrites w) (s : State) :
    ∃ s', exec i s = .next (storeLocked s s') := by
  simp only [Statement.storeLockedWrites, List.mem_cons, List.not_mem_nil, or_false] at h
  obtain rfl | rfl | rfl | rfl | rfl | rfl | rfl | rfl := h <;> exact ⟨_, rfl⟩

/-! ## Register reads (R52, R76) -/

/-- A word read of the register block is the read of the register at its offset. -/
theorem busRead_word {a : Word} (s : State) (ha : a.toNat % 4 = 0) (hb : a.toNat < registerBlockEnd) :
    s.busRead .word a = s.readRegister a.toNat := by
  simp [State.busRead, ha, hb]

/-- A read of a register other than a count returns what it holds and changes nothing else, BUSY or not. -/
theorem busRead_of_register {s : State} {a v : Word} (hr : s.register a.toNat = some v)
    (ha : a.toNat % 4 = 0 := by decide) (hb : a.toNat < registerBlockEnd := by decide)
    (hc : isCountOffset a.toNat = false := by decide) : s.busRead .word a = { s with readData := v } := by
  simp [busRead_word s ha hb, State.readRegister, hr, hc, State.readReturns]

theorem readData_of_register {s : State} {a v : Word} (hr : s.register a.toNat = some v)
    (ha : a.toNat % 4 = 0 := by decide) (hb : a.toNat < registerBlockEnd := by decide)
    (hc : isCountOffset a.toNat = false := by decide) : (s.busRead .word a).readData = v := by
  rw [busRead_of_register hr ha hb hc]

/-- While BUSY = 0 the counts read like any other register. -/
theorem busRead_of_register_of_idle {s : State} {a v : Word} (hi : s.busy = false)
    (hr : s.register a.toNat = some v) (ha : a.toNat % 4 = 0 := by decide)
    (hb : a.toNat < registerBlockEnd := by decide) : s.busRead .word a = { s with readData := v } := by
  simp [busRead_word s ha hb, State.readRegister, hr, hi, State.readReturns]

/-- While BUSY = 1 a read of a count is a draw. -/
theorem busRead_count_of_busy {s : State} {a v : Word} (hi : s.busy = true) (hr : s.register a.toNat = some v)
    (ha : a.toNat % 4 = 0 := by decide) (hb : a.toNat < registerBlockEnd := by decide)
    (hc : isCountOffset a.toNat = true := by decide) : s.busRead .word a = s.readDraw := by
  simp [busRead_word s ha hb, State.readRegister, hr, hi, hc]

/-- A read changes nothing of the block but BUS_ERR (R72, R76). -/
theorem busRead_frame (s : State) (size : AccessSize) (a : Word) :
    s.busRead size a =
      { s with readData := (s.busRead size a).readData, busErr := (s.busRead size a).busErr,
               draws := (s.busRead size a).draws } := by
  obtain ⟨w, d, b, h⟩ := busRead_shape size a s
  rw [h]

/-! ## Fields of a word -/

/-- Concatenation as a number: the low part counts units, the high part multiples of `2 ^ n`. -/
theorem toNat_append_eq_add {m n : Nat} (x : BitVec m) (y : BitVec n) :
    (x ++ y).toNat = x.toNat * 2 ^ n + y.toNat := by
  rw [BitVec.toNat_append, ← Nat.shiftLeft_add_eq_or_of_lt y.isLt, Nat.shiftLeft_eq]

theorem toNat_flagBit (b : Bool) : (flagBit b).toNat = if b then 1 else 0 := by
  cases b <;> rfl

theorem toNat_field (w : Word) (k n : Nat) : (w.extractLsb' k n).toNat = w.toNat / 2 ^ k % 2 ^ n := by
  rw [BitVec.extractLsb'_toNat, Nat.shiftRight_eq_div_pow]

theorem toNat_low_field (w : Word) (n : Nat) : (w.extractLsb' 0 n).toNat = w.toNat % 2 ^ n := by
  rw [toNat_field, Nat.pow_zero, Nat.div_one]

/-- A one-bit field is the bit at its place. -/
theorem extractLsb'_one (w : Word) (k : Nat) : w.extractLsb' k 1 = flagBit (w.getLsbD k) := by
  ext i hi
  obtain rfl : i = 0 := by omega
  simp [flagBit]

/-- A word is the four bytes that R71 names. -/
theorem word_eq_bytes (w : Word) :
    w = w.extractLsb' 24 8 ++ w.extractLsb' 16 8 ++ w.extractLsb' 8 8 ++ w.extractLsb' 0 8 := by
  apply BitVec.eq_of_toNat_eq
  simp only [toNat_append_eq_add, toNat_field]
  omega

end Sys2Proof.Machine
end

section
/-! SUPPORT. The register words field by field: what each reads as, as a number and under the mask of its bits
(spec/10_state.md R25, R26, R38 to R54). -/

namespace Sys2Proof.Machine

open Sys2Proof.Statement

/-! ## Clamped and kept fields (R38, R45, R53) -/

theorem toNat_channelsOf (w : Word) :
    (channelsOf w).toNat = if w.toNat % 64 = 0 then 1 else min 32 (w.toNat % 64) := by
  simp only [channelsOf, clampNat, toNat_field, BitVec.toNat_ofNat]
  split <;> omega

theorem SpiMode.toNat_ofWord_bits (w : Word) :
    (SpiMode.ofWord w).bits.toNat = min 16 (max 4 (w.toNat / 2 ^ 8 % 2 ^ 5)) := by
  simp only [SpiMode.ofWord, clampNat, toNat_field, BitVec.toNat_ofNat]
  omega

theorem UartCfg.toNat_write_dataBits (c : UartCfg) (w : Word) :
    (c.write w).dataBits.toNat = min 9 (max 5 (w.toNat / 2 ^ 8 % 16)) := by
  simp only [UartCfg.write, clampNat, toNat_field, BitVec.toNat_ofNat]
  omega

theorem Parity.write_eq (old : Parity) (field : BitVec 2) :
    old.write field =
      if field.toNat = 0 then .none else if field.toNat = 1 then .odd else if field.toNat = 2 then .even else old := by
  unfold Parity.write
  split <;> simp_all

theorem StopBits.write_eq (old : StopBits) (field : BitVec 2) :
    old.write field =
      if field.toNat = 0 then .one else if field.toNat = 1 then .oneAndHalf else if field.toNat = 2 then .two
      else old := by
  unfold StopBits.write
  split <;> simp_all

/-- PARITY's code after a write: the written value, unless it is the reserved 3 (R53). -/
theorem Parity.code_write (old : Parity) (field : BitVec 2) :
    (old.write field).code.toNat = if field.toNat = 3 then old.code.toNat else field.toNat := by
  have hlt := field.isLt
  rw [Parity.write_eq]
  split_ifs <;> simp_all [Parity.code]
  omega

/-- STOP's code after a write: the written value, unless it is the reserved 3 (R53). -/
theorem StopBits.code_write (old : StopBits) (field : BitVec 2) :
    (old.write field).code.toNat = if field.toNat = 3 then old.code.toNat else field.toNat := by
  have hlt := field.isLt
  rw [StopBits.write_eq]
  split_ifs <;> simp_all [StopBits.code]
  omega

theorem Parity.toNat_code (p : Parity) : p.code.toNat = if p = .none then 0 else if p = .odd then 1 else 2 := by
  cases p <;> rfl

theorem StopBits.toNat_code (p : StopBits) :
    p.code.toNat = if p = .one then 0 else if p = .oneAndHalf then 1 else 2 := by
  cases p <;> rfl

theorem State.cursorValue_of_committed {s : State} (h : s.storeValid = true) (w : Word) :
    s.cursorValue w = BitVec.ofNat 32 (min w.toNat (s.absLen.toNat - 1)) :=
  if_pos h

theorem State.cursorValue_of_open {s : State} (h : s.storeValid = false) (w : Word) : s.cursorValue w = w :=
  if_neg (by simp [h])

/-- The binding that a UART_LINES write stores in byte `k` (R54). -/
theorem LineBinding.ofWord_fields (w : Word) (k : Nat) :
    (LineBinding.ofWord w k).used = w.getLsbD (8 * k + 7) ∧
      (LineBinding.ofWord w k).ch.toNat = w.toNat / 2 ^ (8 * k) % 2 ^ 5 :=
  ⟨rfl, toNat_field w (8 * k) 5⟩

/-- The bindings of a snapshot whose banks are two written words, in pass order (R54, R180). -/
theorem Snapshot.lines_of_words {n : Snapshot} {w w1 : Word} (h0 : n.lines0 = .ofWord w) (h1 : n.lines1 = .ofWord w1) :
    n.lines.map (fun l => (l.1, l.2.used, l.2.ch.toNat)) =
      [(.rxd, w.getLsbD 7, w.toNat % 2 ^ 5), (.txd, w.getLsbD 15, w.toNat / 2 ^ 8 % 2 ^ 5),
        (.cts, w.getLsbD 23, w.toNat / 2 ^ 16 % 2 ^ 5), (.rts, w.getLsbD 31, w.toNat / 2 ^ 24 % 2 ^ 5),
        (.dtr, w1.getLsbD 7, w1.toNat % 2 ^ 5), (.dsr, w1.getLsbD 15, w1.toNat / 2 ^ 8 % 2 ^ 5),
        (.dcd, w1.getLsbD 23, w1.toNat / 2 ^ 16 % 2 ^ 5), (.ri, w1.getLsbD 31, w1.toNat / 2 ^ 24 % 2 ^ 5)] := by
  simp only [Snapshot.lines, h0, h1, LineBank.ofWord, List.map_cons, List.map_nil, LineBinding.ofWord_fields,
    Nat.mul_zero, Nat.zero_add, Nat.pow_zero, Nat.div_one, Nat.reduceMul, Nat.reduceAdd]

/-! ## Register words as numbers -/

theorem toNat_stCfgWord (c : BitVec 6) (t r : Bool) :
    (stCfgWord c t r).toNat = c.toNat + (if t then 2 ^ 8 else 0) + (if r then 2 ^ 9 else 0) := by
  simp only [stCfgWord, toNat_append_eq_add, toNat_flagBit, BitVec.toNat_ofNat]
  split <;> split <;> omega

theorem State.toNat_ctrlWord (s : State) :
    s.ctrlWord.toNat = (if s.irqEn then 1 else 0) + (if s.cancelReq then 2 else 0) := by
  simp only [State.ctrlWord, toNat_append_eq_add, toNat_flagBit, BitVec.toNat_ofNat]
  split <;> split <;> rfl

theorem SpiChannels.toNat_toWord (c : SpiChannels) :
    c.toWord.toNat = c.sck.toNat + 2 ^ 8 * c.miso.toNat + 2 ^ 16 * c.mosi.toNat + 2 ^ 24 * c.cs.toNat := by
  simp only [SpiChannels.toWord, toNat_append_eq_add, BitVec.toNat_ofNat]
  omega

theorem SpiMode.toNat_toWord (m : SpiMode) :
    m.toWord.toNat = m.mode.toNat + 2 ^ 8 * m.bits.toNat + (if m.lsbFirst then 2 ^ 16 else 0) := by
  simp only [SpiMode.toWord, toNat_append_eq_add, toNat_flagBit, BitVec.toNat_ofNat]
  split <;> omega

theorem UartCfg.toNat_toWord (c : UartCfg) :
    c.toWord.toNat =
      c.parity.code.toNat + 2 ^ 8 * c.dataBits.toNat + 2 ^ 16 * c.stop.code.toNat + (if c.invert then 2 ^ 24 else 0) := by
  simp only [UartCfg.toWord, toNat_append_eq_add, toNat_flagBit, BitVec.toNat_ofNat]
  split <;> omega

/-- The four fields of UART_CFG as a reader of the word finds them (R53). -/
theorem UartCfg.toWord_fields (c : UartCfg) :
    c.toWord.toNat % 4 = c.parity.code.toNat ∧ c.toWord.toNat / 2 ^ 8 % 16 = c.dataBits.toNat ∧
      c.toWord.toNat / 2 ^ 16 % 4 = c.stop.code.toNat ∧ c.toWord.toNat / 2 ^ 24 % 2 = if c.invert then 1 else 0 := by
  rw [UartCfg.toNat_toWord]
  split <;> omega

theorem LineBinding.toNat_toByte (l : LineBinding) :
    l.toByte.toNat = (if l.used then 2 ^ 7 else 0) + l.ch.toNat := by
  simp only [LineBinding.toByte, toNat_append_eq_add, toNat_flagBit, BitVec.toNat_ofNat]
  split <;> omega

theorem LineBank.toNat_toWord (b : LineBank) :
    b.toWord.toNat =
      b.byte0.toByte.toNat + 2 ^ 8 * b.byte1.toByte.toNat + 2 ^ 16 * b.byte2.toByte.toNat +
        2 ^ 24 * b.byte3.toByte.toNat := by
  simp only [LineBank.toWord, toNat_append_eq_add]
  omega

/-- PROGRESS reads its seven bits (R30). -/
theorem toNat_progressWord (p : BitVec 7) : (BitVec.zeroExtend 32 p : Word).toNat = p.toNat := by
  rw [BitVec.toNat_setWidth]
  omega

/-- A word is the TIME-sized number it counts. -/
theorem eq_at32 {w : Word} {n : Nat} (h : w.toNat = n) : w = at32 n := by
  rw [← h, at32, BitVec.ofNat_toNat, BitVec.setWidth_eq]

/-! ## Register words at reset (R38, R45, R53) -/

theorem stCfgWord_reset : stCfgWord 32#6 false false = 0x00000020#32 := by decide

theorem SpiMode.toWord_reset : SpiMode.reset.toWord = 0x00000800#32 := by decide

theorem UartCfg.toWord_reset : UartCfg.reset.toWord = 0x00000800#32 := by decide

/-! ## Register words under the mask of their bits -/

/-- A one-bit field under a mask bit of 1 is kept. -/
theorem one_bit_and_one (x : BitVec 1) : x &&& 1#1 = x := BitVec.and_allOnes

/-- A channel field under a mask of ones is kept. -/
theorem five_bits_and_ones (x : BitVec 5) : x &&& 0x1F#5 = x := BitVec.and_allOnes

/-- ST_CFG keeps bits 9:8 of the written word beside CHANNELS (R38). -/
theorem stCfgWord_eq_mask (c : BitVec 6) (w : Word) :
    stCfgWord c (w.getLsbD 8) (w.getLsbD 9) = (w &&& 0x00000300#32) ||| BitVec.ofNat 32 c.toNat := by
  have hw : w = w.extractLsb' 10 22 ++ flagBit (w.getLsbD 9) ++ flagBit (w.getLsbD 8) ++ w.extractLsb' 6 2 ++
      w.extractLsb' 0 6 := by
    simp only [← extractLsb'_one]
    apply BitVec.eq_of_toNat_eq
    simp only [toNat_append_eq_add, toNat_field]
    omega
  have hm : (0x00000300#32 : Word) = 0#22 ++ 1#1 ++ 1#1 ++ 0#2 ++ 0#6 := by decide
  have hc : BitVec.ofNat 32 c.toNat = 0#22 ++ 0#1 ++ 0#1 ++ 0#2 ++ c := by
    apply BitVec.eq_of_toNat_eq
    simp only [toNat_append_eq_add, BitVec.toNat_ofNat]
    omega
  generalize w.getLsbD 9 = r, w.getLsbD 8 = t at hw ⊢
  rw [hw, hm, hc]
  iterate 4 rw [BitVec.and_append]
  iterate 4 rw [BitVec.or_append]
  simp only [stCfgWord, one_bit_and_one, BitVec.and_zero, BitVec.or_zero, BitVec.zero_or]

/-- SPI_MODE keeps bits 16 and 1:0 of the written word beside BITS (R45). -/
theorem SpiMode.toWord_ofWord (w : Word) :
    (SpiMode.ofWord w).toWord =
      (w &&& 0x00010003#32) ||| BitVec.ofNat 32 (256 * min 16 (max 4 (w.toNat / 256 % 32))) := by
  have hw : w = w.extractLsb' 17 15 ++ w.extractLsb' 16 1 ++ w.extractLsb' 13 3 ++ w.extractLsb' 8 5 ++
      w.extractLsb' 2 6 ++ w.extractLsb' 0 2 := by
    apply BitVec.eq_of_toNat_eq
    simp only [toNat_append_eq_add, toNat_field]
    omega
  have hm : (0x00010003#32 : Word) = 0#15 ++ 1#1 ++ 0#3 ++ 0#5 ++ 0#6 ++ 3#2 := by decide
  have h3 (x : BitVec 2) : x &&& 3#2 = x := BitVec.and_allOnes
  have hb : BitVec.ofNat 32 (256 * min 16 (max 4 (w.toNat / 256 % 32))) =
      0#15 ++ 0#1 ++ 0#3 ++ (SpiMode.ofWord w).bits ++ 0#6 ++ 0#2 := by
    apply BitVec.eq_of_toNat_eq
    simp only [toNat_append_eq_add, BitVec.toNat_ofNat, SpiMode.toNat_ofWord_bits]
    omega
  rw [hb]
  generalize hm' : SpiMode.ofWord w = m
  have hmode : m.mode = w.extractLsb' 0 2 := by rw [← hm']; rfl
  have hlsb : flagBit m.lsbFirst = w.extractLsb' 16 1 := by rw [← hm', extractLsb'_one]; rfl
  rw [SpiMode.toWord, hmode, hlsb, hm]
  generalize w.extractLsb' 16 1 = a, w.extractLsb' 0 2 = b at hw ⊢
  conv_rhs => rw [hw]
  iterate 5 rw [BitVec.and_append]
  iterate 5 rw [BitVec.or_append]
  simp only [one_bit_and_one, h3, BitVec.and_zero, BitVec.or_zero, BitVec.zero_or]

/-- UART_CFG has no bit outside PARITY, DATABITS, STOP and INVERT (R53). -/
theorem UartCfg.toWord_reserved (c : UartCfg) : c.toWord &&& ~~~0x01030F03#32 = 0#32 := by
  have hm : (~~~0x01030F03#32 : Word) = 0x7F#7 ++ 0#1 ++ 0x3F#6 ++ 0#2 ++ 0xF#4 ++ 0#4 ++ 0x3F#6 ++ 0#2 := by decide
  rw [hm, UartCfg.toWord]
  iterate 7 rw [BitVec.and_append]
  simp only [BitVec.and_zero, BitVec.zero_and]
  rfl

/-- CURSOR_CTL reads bit 0 of the written word (R40). -/
theorem cursorCtlWord_eq_mask (w : Word) : BitVec.zeroExtend 32 (flagBit (w.getLsbD 0)) = w &&& 0x00000001#32 := by
  apply BitVec.eq_of_toNat_eq
  have h1 : w.toNat &&& 1 = w.toNat % 2 := Nat.and_one_is_mod _
  have h0 : (flagBit (w.getLsbD 0)).toNat = w.toNat % 2 := by rw [← extractLsb'_one, toNat_field]; simp
  rw [BitVec.toNat_and, BitVec.toNat_setWidth, h0]
  exact (Nat.mod_eq_of_lt (by omega)).trans h1.symm

/-- A byte of SPI_CH keeps the five bits of its channel (R44). -/
theorem channelByte_eq_mask (w : Word) (k : Nat) : 0#3 ++ w.extractLsb' k 5 = w.extractLsb' k 8 &&& 0x1F#8 := by
  have hb : w.extractLsb' k 8 = w.extractLsb' (k + 5) 3 ++ w.extractLsb' k 5 := by
    apply BitVec.eq_of_toNat_eq
    simp only [toNat_append_eq_add, toNat_field, Nat.pow_add, ← Nat.div_div_eq_div_mul]
    omega
  have hm : 0x1F#8 = 0#3 ++ 0x1F#5 := by decide
  rw [hb, hm, BitVec.and_append, BitVec.and_zero, five_bits_and_ones]

/-- A byte of a UART_LINES register keeps USED and CH (R54). -/
theorem LineBinding.toByte_ofWord (w : Word) (k : Nat) :
    (LineBinding.ofWord w k).toByte = w.extractLsb' (8 * k) 8 &&& 0x9F#8 := by
  have hb : w.extractLsb' (8 * k) 8 =
      w.extractLsb' (8 * k + 7) 1 ++ w.extractLsb' (8 * k + 5) 2 ++ w.extractLsb' (8 * k) 5 := by
    apply BitVec.eq_of_toNat_eq
    simp only [toNat_append_eq_add, toNat_field, Nat.pow_add _ (8 * k), ← Nat.div_div_eq_div_mul]
    omega
  have hm : 0x9F#8 = 1#1 ++ 0#2 ++ 0x1F#5 := by decide
  rw [hb, hm, BitVec.and_append, BitVec.and_append, BitVec.and_zero, five_bits_and_ones, one_bit_and_one,
    extractLsb'_one]
  rfl

/-- A mask of four bytes acts byte by byte. -/
theorem and_bytes (w : Word) (a b c d : Byte) :
    w &&& (a ++ b ++ c ++ d) =
      (w.extractLsb' 24 8 &&& a) ++ (w.extractLsb' 16 8 &&& b) ++ (w.extractLsb' 8 8 &&& c) ++
        (w.extractLsb' 0 8 &&& d) := by
  conv_lhs => rw [word_eq_bytes w]
  iterate 3 rw [BitVec.and_append]

/-- SPI_CH reads the written word with its reserved bits 0 (R44). -/
theorem SpiChannels.toWord_ofWord (w : Word) : (SpiChannels.ofWord w).toWord = w &&& 0x1F1F1F1F#32 := by
  have hm : (0x1F1F1F1F#32 : Word) = 0x1F#8 ++ 0x1F#8 ++ 0x1F#8 ++ 0x1F#8 := by decide
  rw [hm, and_bytes]
  simp only [← channelByte_eq_mask]
  apply BitVec.eq_of_toNat_eq
  simp only [SpiChannels.toWord, SpiChannels.ofWord, toNat_append_eq_add]
  omega

/-- A UART_LINES register reads the written word with its reserved bits 0 (R54). -/
theorem LineBank.toWord_ofWord (w : Word) : (LineBank.ofWord w).toWord = w &&& 0x9F9F9F9F#32 := by
  have hm : (0x9F9F9F9F#32 : Word) = 0x9F#8 ++ 0x9F#8 ++ 0x9F#8 ++ 0x9F#8 := by decide
  rw [hm, and_bytes]
  simp only [LineBank.toWord, LineBank.ofWord, LineBinding.toByte_ofWord]

/-! ## STATUS and CTRL (R25, R26) -/

/-- The flags of STATUS by bit number, 0 from bit 13 on. -/
def State.statusFlag (s : State) : Nat → Bool
  | 0 => s.busy
  | 1 => s.done
  | 2 => s.err
  | 3 => s.storeValid
  | 4 => s.cancelled
  | 5 => s.evtOvf
  | 6 => s.noBaudRx
  | 7 => s.noBaudTx
  | 8 => s.cmdOvr
  | 9 => s.wrIgn
  | 10 => s.busErr
  | 11 => s.loadOvf
  | 12 => s.loadMixed
  | _ => false

/-- Bit `i + 1` of a word whose lowest field is a flag is bit `i` of the rest. -/
theorem getLsbD_append_flagBit_succ {n : Nat} (x : BitVec n) (b : Bool) (i : Nat) :
    (x ++ flagBit b).getLsbD (i + 1) = x.getLsbD i := by
  simp [BitVec.getLsbD_append]

theorem getLsbD_append_flagBit_zero {n : Nat} (x : BitVec n) (b : Bool) : (x ++ flagBit b).getLsbD 0 = b := by
  rw [BitVec.getLsbD_append, if_pos Nat.one_pos]
  cases b <;> rfl

theorem State.statusWord_getLsbD (s : State) (i : Nat) : s.statusWord.getLsbD i = s.statusFlag i := by
  rw [State.statusWord]
  obtain hi | hi := Nat.lt_or_ge i 13
  · interval_cases i
    all_goals
      repeat rw [getLsbD_append_flagBit_succ]
      rw [getLsbD_append_flagBit_zero, State.statusFlag]
  · obtain ⟨j, rfl⟩ := Nat.exists_eq_add_of_le' hi
    iterate 13 rw [getLsbD_append_flagBit_succ]
    exact BitVec.getLsbD_zero

/-- The bits that a write of 1 clears: DONE, CMD_OVR, WR_IGN and BUS_ERR (R25). -/
theorem getLsbD_w1cMask (i : Nat) : (0x00000702#32 : Word).getLsbD i = decide (i = 1 ∨ i = 8 ∨ i = 9 ∨ i = 10) := by
  obtain hi | hi := Nat.lt_or_ge i 32
  · interval_cases i <;> rfl
  · rw [BitVec.getLsbD_of_ge _ _ hi, eq_comm, decide_eq_false_iff_not]
    omega

/-- STATUS after a W1C write: a flag stays unless it is one of the four and its bit is written as 1 (R25, R82). -/
theorem State.statusWord_w1c (s : State) (w : Word) :
    State.statusWord
        { s with done := w1c s.done (w.getLsbD 1), cmdOvr := w1c s.cmdOvr (w.getLsbD 8),
                 wrIgn := w1c s.wrIgn (w.getLsbD 9), busErr := w1c s.busErr (w.getLsbD 10) } =
      s.statusWord &&& ~~~(w &&& 0x00000702#32) := by
  apply BitVec.eq_of_getLsbD_eq
  intro i hi
  simp only [BitVec.getLsbD_and, BitVec.getLsbD_not, State.statusWord_getLsbD, getLsbD_w1cMask, hi, decide_true,
    Bool.true_and]
  unfold State.statusFlag
  split <;> simp [w1c, State.busy, State.err]

theorem Seq.isDecode_iff (q : Seq) :
    q.isDecode = true ↔ q.command = some .decodeSpi ∨ q.command = some .decodeUart := by
  simp [Seq.isDecode]

end Sys2Proof.Machine
end

section
/-! SUPPORT. The capacities NMAX and EMAX through every operation and every step (spec/10_state.md R22, R23): for each
function that yields a state, what it does to both, so that the step lemma only puts them together. -/

namespace Sys2Proof.Machine

/-- NMAX and EMAX. -/
def State.capacities (s : State) : Word × Word := (s.nMax, s.eMax)

theorem State.capacities_eq_iff {s t : State} : t.capacities = s.capacities ↔ t.nMax = s.nMax ∧ t.eMax = s.eMax :=
  Prod.mk_inj

/-- Where an outcome goes on, NMAX and EMAX are those of `s`. -/
def KeepsCapacities (s : State) (o : Host.Outcome State Fault Refusal) : Prop :=
  ∀ t, o = .next t → t.capacities = s.capacities

theorem keepsCapacities_next {s t : State} (h : t.capacities = s.capacities) : KeepsCapacities s (.next t) := by
  rintro _ ⟨⟩
  exact h

/-! ## The shared operations -/

theorem capacities_busyLocked {s s' : State} (h : s'.capacities = s.capacities) :
    (busyLocked s s').capacities = s.capacities := by
  obtain ⟨-, e⟩ | ⟨-, e⟩ := busyLocked_cases s s' <;> rw [e]
  · rfl
  · exact h

theorem capacities_storeLocked {s s' : State} (h : s'.capacities = s.capacities) :
    (storeLocked s s').capacities = s.capacities := by
  obtain ⟨-, e⟩ | ⟨-, -, e⟩ := storeLocked_cases s s' <;> rw [e]
  · rfl
  · exact h

theorem capacities_writeCommand (c : Command) (s : State) : (s.writeCommand c).capacities = s.capacities := by
  obtain ⟨-, e⟩ | ⟨-, e⟩ := writeCommand_cases c s <;> rw [e]
  · rfl
  · obtain ⟨-, e⟩ | ⟨-, e⟩ | ⟨-, -, e⟩ := accept_cases c s <;> rw [e] <;> rfl

theorem keepsCapacities_commandStep (c : Command) {run : State → State} {s : State}
    (h : (run s).capacities = s.capacities) : KeepsCapacities s (commandStep c run s) := by
  obtain ⟨-, e⟩ | ⟨-, e⟩ := commandStep_cases c run s <;> rw [e]
  · exact keepsCapacities_next (capacities_writeCommand c s)
  · exact keepsCapacities_next h

theorem capacities_completeWith {body : State → Except ErrCode State} {s : State}
    (h : ∀ u, body s = .ok u → u.capacities = s.capacities) : (s.completeWith body).capacities = s.capacities := by
  obtain ⟨u, hu, e⟩ | ⟨_, -, e⟩ := completeWith_cases body s <;> rw [e]
  · exact h u hu
  · rfl

theorem capacities_emitAll (s : State) (es : List Event) : (s.emitAll es).capacities = s.capacities := by
  obtain ⟨_, _, _, e⟩ := emitAll_shape s es
  rw [e]; rfl

theorem capacities_hardwarePublishes (s : State) : s.hardwarePublishes.capacities = s.capacities := by
  obtain ⟨_, _, e⟩ := hardwarePublishes_shape s
  rw [e]; rfl

theorem capacities_busRead (size : AccessSize) (a : Word) (s : State) :
    (s.busRead size a).capacities = s.capacities := by
  obtain ⟨_, _, _, e⟩ := busRead_shape size a s
  rw [e]; rfl

theorem capacities_dropWrite (r : WriteReject) (s : State) : (s.dropWrite r).capacities = s.capacities := by
  obtain ⟨-, e⟩ | ⟨-, e⟩ := dropWrite_cases r s <;> rw [e]
  rfl

/-- A reset event keeps the capacities, which are parameters of the block (R22, R23, R261). -/
theorem capacities_resetEvent (e : ResetEvent) (s : State) : (s.resetEvent e).capacities = s.capacities := by
  cases e <;> rfl

/-! ## The load writes and the commands -/

theorem capacities_push (w : Word) (s : State) : (s.push w).capacities = s.capacities := by
  unfold State.push
  split_ifs <;> rfl

theorem capacities_pushRaw (w : Word) (s : State) : (s.pushRaw w).capacities = s.capacities := by
  unfold State.pushRaw
  split_ifs <;> rfl

/-- A commit that succeeds has the commit effects of R124, or finds a store committed already. -/
theorem tryCommit_ok {s u : State} (h : s.tryCommit = .ok u) : u = s ∨ u = s.commit s.commitLength := by
  unfold State.tryCommit at h
  split_ifs at h <;> cases h <;> simp

/-- A QUERY_INDEX that succeeds writes RESULT0 only (R128). -/
theorem queryIndex_ok {s u : State} (h : s.queryIndex = .ok u) : ∃ r, u = { s with result0 := r } := by
  unfold State.queryIndex at h
  split at h <;> cases h
  exact ⟨_, rfl⟩

/-- A QUERY_VALUE that succeeds writes RESULT0 and RESULT1 only (R130). -/
theorem queryValue_ok {s u : State} (h : s.queryValue = .ok u) : ∃ r q, u = { s with result0 := r, result1 := q } := by
  unfold State.queryValue at h
  split at h <;> cases h
  exact ⟨_, _, rfl⟩

/-- An ESTIMATE_BAUD that succeeds writes the three results only (R146). -/
theorem estimateBaud_ok {s u : State} (h : s.estimateBaud = .ok u) :
    ∃ r q p, u = { s with result0 := r, result1 := q, result2 := p } := by
  unfold State.estimateBaud at h
  split_ifs at h
  cases h
  exact ⟨_, _, _, rfl⟩

/-! ## The decodes -/

theorem capacities_spiEmit (s : State) (scan : SpiScan) (es : List Event) :
    (s.spiEmit scan es).capacities = s.capacities := by
  unfold State.spiEmit
  dsimp only
  split_ifs <;> exact capacities_emitAll s es

theorem capacities_spiStep (s : State) (scan : SpiScan) : (s.spiStep scan).capacities = s.capacities := by
  unfold State.spiStep
  split_ifs
  · rfl
  · rfl
  · exact capacities_spiEmit s _ _

theorem capacities_spiBegin (s : State) : s.spiBegin.capacities = s.capacities := by
  unfold State.spiBegin
  split_ifs
  · rfl
  · split
    · rfl
    · exact capacities_spiStep s _

theorem capacities_runSpi (s : State) : s.runSpi.capacities = s.capacities := by
  unfold State.runSpi
  split
  · exact capacities_spiBegin s
  · exact capacities_spiStep s _
  all_goals rfl

theorem capacities_uartEstimate (s : State) (scan : UartScan) (role : Role) (ch : Nat) (rest : List UartItem) :
    (s.uartEstimate scan role ch rest).capacities = s.capacities := by
  cases role <;> rfl

theorem capacities_uartEmit (s : State) (scan : UartScan) (work : List UartItem) (es : List Event) :
    (s.uartEmit scan work es).capacities = s.capacities := capacities_emitAll s es

theorem capacities_uartFrame (s : State) (scan : UartScan) (role : Role) (ch bd pos : Nat) (rest : List UartItem) :
    (s.uartFrame scan role ch bd pos rest).capacities = s.capacities := by
  unfold State.uartFrame
  split <;> exact capacities_uartEmit s scan _ _

theorem capacities_uartStep (s : State) (scan : UartScan) : (s.uartStep scan).capacities = s.capacities := by
  unfold State.uartStep
  split
  · rfl
  · exact capacities_uartEstimate s scan _ _ _
  · split_ifs
    · rfl
    · exact capacities_uartFrame s scan _ _ _ _ _
  · split_ifs
    · rfl
    · exact capacities_uartEmit s scan _ _

theorem capacities_uartBegin (s : State) : s.uartBegin.capacities = s.capacities := by
  unfold State.uartBegin
  split_ifs
  · rfl
  · exact capacities_uartStep s _

theorem capacities_runUart (s : State) : s.runUart.capacities = s.capacities := by
  unfold State.runUart
  split
  · exact capacities_uartBegin s
  · exact capacities_uartStep s _
  all_goals rfl

/-! ## Every operation and every turn -/

/-- No operation changes a capacity. -/
theorem keepsCapacities_exec (i : Instr) (s : State) : KeepsCapacities s (exec i s) := by
  cases i with
  | nop => exact keepsCapacities_commandStep .nop rfl
  | illegalCmd opc rsvd => exact keepsCapacities_commandStep (.illegal opc rsvd) rfl
  | storeClear => exact keepsCapacities_commandStep .storeClear (run := fun u => u.clearStore.complete .ok) rfl
  | storeCommit =>
    refine keepsCapacities_commandStep .storeCommit (capacities_completeWith fun u hu => ?_)
    obtain rfl | rfl := tryCommit_ok hu <;> rfl
  | queryIndex =>
    refine keepsCapacities_commandStep .queryIndex (capacities_completeWith fun u hu => ?_)
    obtain ⟨_, rfl⟩ := queryIndex_ok hu; rfl
  | queryValue =>
    refine keepsCapacities_commandStep .queryValue (capacities_completeWith fun u hu => ?_)
    obtain ⟨_, _, rfl⟩ := queryValue_ok hu; rfl
  | estimateBaud =>
    refine keepsCapacities_commandStep .estimateBaud (capacities_completeWith fun u hu => ?_)
    obtain ⟨_, _, _, rfl⟩ := estimateBaud_ok hu; rfl
  | decodeSpi => exact keepsCapacities_commandStep .decodeSpi (capacities_runSpi s)
  | decodeUart => exact keepsCapacities_commandStep .decodeUart (capacities_runUart s)
  | statusW1c | ctrlWr => exact keepsCapacities_next rfl
  | pushTs w => exact keepsCapacities_next (capacities_storeLocked (capacities_push w s))
  | rawSample w => exact keepsCapacities_next (capacities_storeLocked (capacities_pushRaw w s))
  | stAbslenWr | stTriggerWr | stRateWr | stCfgWr | stEnmaskWr | pushValueWr =>
    exact keepsCapacities_next (capacities_storeLocked rfl)
  | arg0Wr | cursorCtlWr | cursorAWr | cursorBWr | spiChWr | spiModeWr | uartCfgWr | uartLines0Wr | uartLines1Wr =>
    exact keepsCapacities_next (capacities_busyLocked rfl)

theorem capacities_pollDone (s : State) : s.pollDone.capacities = s.capacities := by
  unfold State.pollDone
  dsimp only
  split_ifs <;> exact capacities_busRead .word _ s

theorem keepsCapacities_deliver (b : BusWrite) (s : State) : KeepsCapacities s (deliver b s) := by
  unfold deliver
  split
  · exact keepsCapacities_exec _ s
  · exact keepsCapacities_next (capacities_dropWrite _ s)

theorem keepsCapacities_hostTurn (op : HostOp) (s : State) : KeepsCapacities s (hostTurn op s) := by
  unfold hostTurn
  split_ifs
  · cases op <;> exact keepsCapacities_next rfl
  · cases op with
    | write b => exact keepsCapacities_deliver b s
    | read size a => exact keepsCapacities_next (capacities_busRead size a s)
    | waitDone => exact keepsCapacities_next (capacities_pollDone s)

theorem keepsCapacities_sequencerTurn (s : State) : KeepsCapacities s (sequencerTurn s) := by
  unfold sequencerTurn
  split_ifs
  · exact keepsCapacities_next rfl
  · split
    · exact keepsCapacities_next rfl
    · exact keepsCapacities_exec _ { s with turn := .sequencer }

theorem keepsCapacities_agentsTurn (s : State) : KeepsCapacities s (agentsTurn s) := by
  have published : ∀ {u : State} {o}, u.capacities = s.hardwarePublishes.capacities → KeepsCapacities u o →
      KeepsCapacities s o :=
    fun hu ho t ht => (ho t ht).trans (hu.trans (capacities_hardwarePublishes s))
  unfold agentsTurn
  split
  · exact published rfl (keepsCapacities_sequencerTurn _)
  · split_ifs
    · exact published rfl (keepsCapacities_hostTurn _ _)
    · exact published rfl (keepsCapacities_sequencerTurn _)

/-- No step changes a capacity, whatever agent takes it. -/
theorem keepsCapacities_step (s : State) : KeepsCapacities s (step s) := by
  unfold step anyTurn
  split
  · exact keepsCapacities_agentsTurn s
  · split_ifs
    · exact keepsCapacities_next (capacities_resetEvent _ _)
    · exact keepsCapacities_agentsTurn { s with platform := _ }

end Sys2Proof.Machine
end

section
/-! CERTIFICATE. The statements about single registers: what a write stores, what a lock drops, what a read returns
(spec/10_state.md R21 to R54). -/

namespace Sys2Proof.Certificates

open Sys2Proof.Machine Sys2Proof.Statement

/-- Settles O20: the fields of a word are summed up by `toNat_stCfgWord`, and what a write keeps by
`stCfgWord_eq_mask`. -/
theorem stCfgWriteClampsChannels : Obligations.StCfgWriteClampsChannels := by
  refine ⟨fun n e => (readData_of_register rfl).trans stCfgWord_reset, fun s w h => ?_, fun s => ?_,
    fun s w hb hv => ?_⟩
  · rw [exec_stCfgWr, storeLocked_of_locked h]
  · rw [busRead_of_register rfl, eq_at32 (toNat_stCfgWord _ _ _)]
  · rw [exec_stCfgWr, storeLocked_of_free hb hv]
    exact ⟨_, rfl, rfl, toNat_channelsOf w, (readData_of_register rfl).trans (stCfgWord_eq_mask _ w)⟩

/-- Settles O23: the clamp of BITS is `SpiMode.toNat_ofWord_bits`, the read-back `SpiMode.toWord_ofWord`. -/
theorem spiModeWriteClampsBits : Obligations.SpiModeWriteClampsBits := by
  refine ⟨fun n e => (readData_of_register rfl).trans SpiMode.toWord_reset, fun s w h => ?_, fun s => ?_,
    fun s w hb => ?_⟩
  · rw [exec_spiModeWr, busyLocked_of_busy h]
  · rw [busRead_of_register rfl, eq_at32 (SpiMode.toNat_toWord _)]
  · rw [exec_spiModeWr, busyLocked_of_idle hb]
    refine ⟨_, rfl, rfl, ?mode, SpiMode.toNat_ofWord_bits w, rfl, ?read⟩
    case mode => exact toNat_low_field w 2
    case read => exact (readData_of_register rfl).trans (SpiMode.toWord_ofWord w)

/-- Settles O24: a write is taken apart field by field, as numbers by `UartCfg.toWord_fields`. -/
theorem uartCfgWriteKeepsReservedFields : Obligations.UartCfgWriteKeepsReservedFields := by
  refine ⟨fun n e => (readData_of_register rfl).trans UartCfg.toWord_reset, fun s w h => ?_, fun s => ?_,
    fun s w hb => ?_⟩
  · rw [exec_uartCfgWr, busyLocked_of_busy h]
  · rw [busRead_of_register rfl, eq_at32 (UartCfg.toNat_toWord _), Parity.toNat_code, StopBits.toNat_code]
  · rw [exec_uartCfgWr, busyLocked_of_idle hb]
    have hparity : (w.extractLsb' 0 2).toNat = w.toNat % 4 := toNat_low_field w 2
    have hstop : (w.extractLsb' 16 2).toNat = w.toNat / 2 ^ 16 % 4 := toNat_field w 16 2
    have hinvert : (if w.getLsbD 24 then 1 else 0) = w.toNat / 2 ^ 24 % 2 := by
      rw [← toNat_flagBit, ← extractLsb'_one, toNat_field, Nat.pow_one]
    obtain ⟨fparity, fdata, fstop, finvert⟩ := UartCfg.toWord_fields (s.uartCfg.write w)
    obtain ⟨oparity, -, ostop, -⟩ := UartCfg.toWord_fields s.uartCfg
    refine ⟨_, rfl, rfl, ?parity, UartCfg.toNat_write_dataBits _ w, ?stop, rfl, ?wparity, ?wdata, ?wstop, ?winvert,
      UartCfg.toWord_reserved _, ?read⟩
    case parity => rw [← hparity]; exact Parity.write_eq _ _
    case stop => rw [← hstop]; exact StopBits.write_eq _ _
    case wparity => rw [fparity, oparity, ← hparity]; exact Parity.code_write _ _
    case wdata => rw [fdata]; exact UartCfg.toNat_write_dataBits _ w
    case wstop => rw [fstop, ostop, ← hstop]; exact StopBits.code_write _ _
    case winvert => rw [finvert]; exact hinvert
    case read => exact readData_of_register rfl

/-- Settles O10: no step of any agent writes a capacity (`keepsCapacities_step`). -/
theorem capacitiesAreConstant : Obligations.CapacitiesAreConstant :=
  ⟨fun s t h => State.capacities_eq_iff.1 (keepsCapacities_step s t h), fun _ _ => ⟨rfl, rfl⟩,
    fun _ => ⟨busRead_of_register rfl, busRead_of_register rfl⟩⟩

/-- Settles O16: every listed write stands under its lock. -/
theorem lockedWritesAreDropped : Obligations.LockedWritesAreDropped := by
  refine fun s w => ⟨fun h i hi => ?_, fun h i hi => ?_⟩
  · obtain ⟨s', e⟩ := exec_of_mem_busyLockedWrites hi s
    rw [e, busyLocked_of_busy h]
  · obtain ⟨s', e⟩ := exec_of_mem_storeLockedWrites hi s
    rw [e, storeLocked_of_locked h]

/-- Settles O17: the layout is `State.statusWord_getLsbD`, the clear `State.statusWord_w1c`. -/
theorem statusLayoutAndClear : Obligations.StatusLayoutAndClear := by
  intro s
  refine ⟨?layout, busRead_of_register rfl, fun w => ⟨_, exec_statusW1c w s, State.statusWord_w1c s w, rfl⟩⟩
  have reserved : ∀ i, 13 ≤ i → s.statusFlag i = false := by
    intro i hi
    obtain ⟨j, rfl⟩ := Nat.exists_eq_add_of_le' hi
    rfl
  simp only [State.statusWord_getLsbD]
  exact ⟨rfl, rfl, bne_iff_ne, rfl, rfl, rfl, rfl, rfl, rfl, rfl, rfl, rfl, rfl, reserved⟩

/-- Settles O18: CANCEL_REQ changes only where the written bit and a running decode meet (`Seq.isDecode_iff`). -/
theorem ctrlWriteSetsEnableAndRequest : Obligations.CtrlWriteSetsEnableAndRequest := by
  refine fun s w => ⟨fun hw hd => ?set, fun h => ?keep, ?read⟩
  case set => rw [exec_ctrlWr, hw, (Seq.isDecode_iff _).2 hd, Bool.and_self, Bool.or_true]
  case keep =>
    have hno : (w.getLsbD 1 && s.seq.isDecode) = false := by
      rw [Bool.and_eq_false_iff]
      exact h.imp_right fun hd => Bool.eq_false_iff.2 fun hq => ((Seq.isDecode_iff _).1 hq).elim hd.1 hd.2
    rw [exec_ctrlWr, hno, Bool.or_false]
  case read => rw [busRead_of_register rfl, eq_at32 (State.toNat_ctrlWord s)]

/-- Settles O19: six unlocked writes and six register reads. -/
theorem wholeWordRegistersStoreTheWord : Obligations.WholeWordRegistersStoreTheWord := by
  refine ⟨fun s w hb => ⟨?_, fun hv => ?_⟩, fun s => ?_⟩
  · rw [exec_arg0Wr, busyLocked_of_idle hb]
  · rw [exec_stAbslenWr, exec_stTriggerWr, exec_stRateWr, exec_stEnmaskWr, exec_pushValueWr]
    simp only [storeLocked_of_free hb hv, and_self]
  · exact ⟨busRead_of_register rfl, busRead_of_register rfl, busRead_of_register rfl, busRead_of_register rfl,
      busRead_of_register rfl, busRead_of_register rfl⟩

/-- Settles O21: the two cases of `State.cursorValue` under the busy lock. -/
theorem cursorWritesAreClamped : Obligations.CursorWritesAreClamped := by
  refine ⟨fun n e => ⟨rfl, rfl⟩, fun s => ⟨busRead_of_register rfl, busRead_of_register rfl⟩, fun s w h => ?_,
    fun s w h => ⟨fun hv => ?_, fun hv => ?_⟩⟩
  · rw [exec_cursorAWr, exec_cursorBWr, busyLocked_of_busy h, busyLocked_of_busy h]
    exact ⟨rfl, rfl⟩
  · rw [exec_cursorAWr, exec_cursorBWr, busyLocked_of_idle h, busyLocked_of_idle h, State.cursorValue_of_committed hv]
    exact ⟨rfl, rfl⟩
  · rw [exec_cursorAWr, exec_cursorBWr, busyLocked_of_idle h, busyLocked_of_idle h, State.cursorValue_of_open hv]
    exact ⟨rfl, rfl⟩

/-- Settles O22: each register word as a number, and what it keeps of a written word. -/
theorem fieldRegistersStoreTheirFields : Obligations.FieldRegistersStoreTheirFields := by
  refine ⟨fun s => ⟨?cursorRead, ?spiRead, ?bank0, ?bank1⟩, fun s w hb => ⟨?cursor, ?spi, ?lines0, ?lines1, ?roles⟩⟩
  case cursorRead =>
    rw [busRead_of_register rfl]
    cases s.cursorEn <;> rfl
  case spiRead => rw [busRead_of_register rfl, eq_at32 (SpiChannels.toNat_toWord _)]
  case bank0 =>
    rw [busRead_of_register rfl, eq_at32 (LineBank.toNat_toWord _)]
    simp only [LineBinding.toNat_toByte]
  case bank1 =>
    rw [busRead_of_register rfl, eq_at32 (LineBank.toNat_toWord _)]
    simp only [LineBinding.toNat_toByte]
  case cursor =>
    rw [exec_cursorCtlWr, busyLocked_of_idle hb]
    exact ⟨_, rfl, rfl, (readData_of_register rfl).trans (cursorCtlWord_eq_mask w)⟩
  case spi =>
    rw [exec_spiChWr, busyLocked_of_idle hb]
    exact ⟨_, rfl, rfl, toNat_low_field w 5, toNat_field w 8 5, toNat_field w 16 5, toNat_field w 24 5,
      (readData_of_register rfl).trans (SpiChannels.toWord_ofWord w)⟩
  case lines0 =>
    rw [exec_uartLines0Wr, busyLocked_of_idle hb]
    exact ⟨_, rfl, rfl, (readData_of_register rfl).trans (LineBank.toWord_ofWord w)⟩
  case lines1 =>
    rw [exec_uartLines1Wr, busyLocked_of_idle hb]
    exact ⟨_, rfl, rfl, (readData_of_register rfl).trans (LineBank.toWord_ofWord w)⟩
  case roles =>
    intro w1 t u n ht hu h0 h1
    rw [exec_uartLines0Wr, busyLocked_of_idle hb] at ht
    obtain rfl := Host.Outcome.next.inj ht
    have hidle : State.busy { s with lines0 := .ofWord w } = false := hb
    rw [exec_uartLines1Wr, busyLocked_of_idle hidle] at hu
    obtain rfl := Host.Outcome.next.inj hu
    exact Snapshot.lines_of_words h0 h1

/-- Settles O60: one register read for each offset, and the draws of the three counts. -/
theorem readOnlyRegistersReadTheirState : Obligations.ReadOnlyRegistersReadTheirState := by
  refine ⟨by decide, busRead_frame, fun s => ⟨busRead_of_register rfl, busRead_of_register rfl, busRead_of_register rfl,
    busRead_of_register rfl, busRead_of_register rfl, busRead_of_register rfl, busRead_of_register rfl,
    busRead_of_register rfl, ?progress, busRead_of_register rfl, busRead_of_register rfl, busRead_of_register rfl,
    busRead_of_register rfl, fun hb => ?idle, fun hb a ha => ?busy⟩⟩
  case progress => rw [busRead_of_register rfl, eq_at32 (toNat_progressWord s.progress)]
  case idle =>
    exact ⟨busRead_of_register_of_idle hb rfl, busRead_of_register_of_idle hb rfl, busRead_of_register_of_idle hb rfl⟩
  case busy =>
    simp only [List.mem_cons, List.not_mem_nil, or_false] at ha
    obtain rfl | rfl | rfl := ha <;> exact busRead_count_of_busy hb rfl

end Sys2Proof.Certificates
end

section
/-! SUPPORT. Rules of the bus (spec/20_memory.md R70 to R79): which offsets hold a register, what the block does with an
access that R72 refuses, what a read of a window entry returns, and what a step does whose host operation is due. -/

namespace Sys2Proof.Machine

open Sys2Proof.Statement

/-! ## Offsets that hold a register (spec/10_state.md section 2) -/

/-- Inside the register block (R73) and not reserved, alignment aside. -/
def HoldsRegister (a : Nat) : Prop := a < registerBlockEnd ∧ ¬ reservedOffset a

theorem holdsRegister_of_decodeMmio {a : Nat} {w : Word} {i : Instr} (h : decodeMmio a w = some i) :
    HoldsRegister a := by
  unfold decodeMmio at h
  split at h <;> cases h <;> simp [HoldsRegister, reservedOffset, registerBlockEnd]

theorem not_mem_readOnlyOffsets_of_decodeMmio {a : Nat} {w : Word} {i : Instr} (h : decodeMmio a w = some i) :
    a ∉ readOnlyOffsets := by
  unfold decodeMmio at h
  split at h <;> cases h <;> decide

theorem holdsRegister_of_register {s : State} {a : Nat} {w : Word} (h : s.register a = some w) :
    HoldsRegister a := by
  unfold State.register at h
  split at h <;> cases h <;> simp [HoldsRegister, reservedOffset, registerBlockEnd]

theorem holdsRegister_of_mem_readOnlyOffsets {a : Nat} (h : a ∈ readOnlyOffsets) : HoldsRegister a := by
  simp only [readOnlyOffsets, List.mem_cons, List.not_mem_nil, or_false] at h
  unfold HoldsRegister reservedOffset registerBlockEnd
  omega

theorem holdsRegister_cmdOffset : HoldsRegister cmdOffset := by
  simp [HoldsRegister, reservedOffset, registerBlockEnd, cmdOffset]

theorem not_holdsRegister_of_ge {a : Nat} (h : registerBlockEnd ≤ a) : ¬ HoldsRegister a :=
  fun hr => absurd hr.1 (Nat.not_lt.2 h)

theorem not_holdsRegister_of_reserved {a : Nat} (h : reservedOffset a) : ¬ HoldsRegister a :=
  fun hr => hr.2 h

/-! ## Refused writes (R72) -/

/-- A write that decodes to no operation is dropped or ignored. -/
theorem deliver_of_rejected {b : BusWrite} {r : WriteReject} (h : decodeWrite b = .rejected r) (s : State) :
    deliver b s = .next (s.dropWrite r) := by
  simp only [deliver, h]

theorem deliver_of_operation {b : BusWrite} {i : Instr} (h : decodeWrite b = .operation i) (s : State) :
    deliver b s = exec i s := by
  simp only [deliver, h]

theorem rejectAt_ne_readOnlyRegister {a : Nat} (h : ¬ HoldsRegister a) : rejectAt a ≠ .readOnlyRegister := by
  have hro : a ∉ readOnlyOffsets := fun hm => h (holdsRegister_of_mem_readOnlyOffsets hm)
  unfold rejectAt
  rw [if_neg (by simpa using hro)]
  split_ifs <;> exact WriteReject.noConfusion

/-- An aligned word write to no writable register is rejected by its offset. -/
theorem decodeWrite_not_writable {b : BusWrite} {o : Nat} (ho : b.addr.toNat = o) (hsize : b.size = .word)
    (halign : o % 4 = 0) (hcmd : o ≠ cmdOffset) (hmmio : decodeMmio o b.data = none) :
    decodeWrite b = .rejected (rejectAt o) := by
  simp [decodeWrite, ho, hsize, halign, hcmd, hmmio]

/-- A write is dropped with BUS_ERR unless it is an aligned word write to a register. -/
theorem decodeWrite_refused {b : BusWrite}
    (h : b.size ≠ .word ∨ b.addr.toNat % 4 ≠ 0 ∨ ¬ HoldsRegister b.addr.toNat) :
    ∃ r, decodeWrite b = .rejected r ∧ r ≠ .readOnlyRegister := by
  by_cases hsize : b.size = .word
  · by_cases halign : b.addr.toNat % 4 = 0
    · have hno : ¬ HoldsRegister b.addr.toNat :=
        (h.resolve_left (not_not.2 hsize)).resolve_left (not_not.2 halign)
      have hcmd : b.addr.toNat ≠ cmdOffset := fun e => hno (e ▸ holdsRegister_cmdOffset)
      have hmmio : decodeMmio b.addr.toNat b.data = none :=
        Option.eq_none_iff_forall_ne_some.2 fun _ hi => hno (holdsRegister_of_decodeMmio hi)
      exact ⟨_, decodeWrite_not_writable rfl hsize halign hcmd hmmio, rejectAt_ne_readOnlyRegister hno⟩
    · exact ⟨.misaligned, by simp [decodeWrite, hsize, halign], WriteReject.noConfusion⟩
  · exact ⟨.subWord, if_pos hsize, WriteReject.noConfusion⟩

theorem deliver_refused {b : BusWrite}
    (h : b.size ≠ .word ∨ b.addr.toNat % 4 ≠ 0 ∨ ¬ HoldsRegister b.addr.toNat) (s : State) :
    deliver b s = .next { s with busErr := true } := by
  obtain ⟨r, hdec, hr⟩ := decodeWrite_refused h
  obtain ⟨e, -⟩ | ⟨-, hdrop⟩ := dropWrite_cases r s
  · exact absurd e hr
  · rw [deliver_of_rejected hdec, hdrop]

/-- A write to a read-only register is ignored with no flag (spec/93_implementation_defined.md I20). -/
theorem decodeWrite_readOnly {o : Nat} (h : o ∈ readOnlyOffsets) (data : Word) :
    decodeWrite ⟨.word, BitVec.ofNat 32 o, data⟩ = .rejected .readOnlyRegister := by
  have haligned : ∀ o ∈ readOnlyOffsets, o % 4 = 0 ∧ o ≠ cmdOffset ∧ o < 2 ^ 32 := by decide
  obtain ⟨halign, hcmd, hlt⟩ := haligned o h
  have ha : (BitVec.ofNat 32 o).toNat = o := by rw [BitVec.toNat_ofNat, Nat.mod_eq_of_lt hlt]
  have hmmio : decodeMmio o data = none :=
    Option.eq_none_iff_forall_ne_some.2 fun _ hi => not_mem_readOnlyOffsets_of_decodeMmio hi h
  rw [decodeWrite_not_writable ha rfl halign hcmd hmmio, rejectAt, if_pos (List.contains_iff_mem.2 h)]

/-- An access that R72 refuses is no aligned word access to a register. -/
theorem not_register_access_of_refused {size : AccessSize} {a : Nat} (h : refusedAccess size a) :
    size ≠ .word ∨ a % 4 ≠ 0 ∨ ¬ HoldsRegister a := by
  refine h.imp_right (Or.imp_right fun hno => ?_)
  obtain hres | hout := hno
  · exact not_holdsRegister_of_reserved hres
  · refine not_holdsRegister_of_ge ?_
    unfold outsideRegions at hout
    unfold registerBlockEnd
    omega

/-! ## Reads by region (R72 to R75) -/

theorem busRead_of_subWord_or_misaligned {size : AccessSize} {a : Word} (h : size ≠ .word ∨ a.toNat % 4 ≠ 0)
    (s : State) : s.busRead size a = s.readRefused :=
  if_pos h

theorem busRead_reserved {a : Word} (s : State) (ha : a.toNat % 4 = 0) (h : reservedOffset a.toNat) :
    s.busRead .word a = s.readRefused := by
  have hlt : a.toNat < registerBlockEnd := by
    unfold reservedOffset at h
    unfold registerBlockEnd
    omega
  have hnone : s.register a.toNat = none :=
    Option.eq_none_iff_forall_ne_some.2 fun _ hw => not_holdsRegister_of_reserved h (holdsRegister_of_register hw)
  rw [busRead_word s ha hlt, State.readRegister, hnone]

/-- Past the register block a word read is answered by the region of its offset. -/
theorem busRead_past_registers {a : Word} {o : Nat} (s : State) (ho : a.toNat = o) (ha : o % 4 = 0)
    (hb : registerBlockEnd ≤ o) :
    s.busRead .word a =
      if inTransitionWindow o then s.readReturns (s.transitionWord o)
      else if inEventWindow o then if s.busy then s.readDraw else s.readReturns (s.eventWord o)
      else s.readRefused := by
  subst ho
  have haccess : ¬ (AccessSize.word ≠ .word ∨ a.toNat % 4 ≠ 0) := by simp [ha]
  rw [State.busRead, if_neg haccess, if_neg (Nat.not_lt.2 hb)]

theorem inTransitionWindow_iff (a : Nat) : inTransitionWindow a = true ↔ 0x01000000 ≤ a ∧ a < 0x02000000 := by
  simp [inTransitionWindow]

theorem inEventWindow_iff (a : Nat) : inEventWindow a = true ↔ 0x02000000 ≤ a ∧ a < 0x03000000 := by
  simp [inEventWindow]

theorem busRead_outside {a : Word} (s : State) (ha : a.toNat % 4 = 0) (h : outsideRegions a.toNat) :
    s.busRead .word a = s.readRefused := by
  unfold outsideRegions at h
  have hb : registerBlockEnd ≤ a.toNat := by unfold registerBlockEnd; omega
  have ht : ¬ inTransitionWindow a.toNat = true := by rw [inTransitionWindow_iff]; omega
  have he : ¬ inEventWindow a.toNat = true := by rw [inEventWindow_iff]; omega
  rw [busRead_past_registers s rfl ha hb, if_neg ht, if_neg he]

/-- A read that R72 refuses returns 0 and sets BUS_ERR. -/
theorem busRead_refused {size : AccessSize} {a : Word} (h : refusedAccess size a.toNat) (s : State) :
    s.busRead size a = s.readRefused := by
  by_cases haccess : size ≠ .word ∨ a.toNat % 4 ≠ 0
  · exact busRead_of_subWord_or_misaligned haccess s
  · obtain ⟨hsize, halign⟩ := not_or.1 haccess
    obtain rfl := not_not.1 hsize
    obtain hres | hout := (h.resolve_left hsize).resolve_left halign
    · exact busRead_reserved s (not_not.1 halign) hres
    · exact busRead_outside s (not_not.1 halign) hout

/-! ## Reads of a window entry (R74, R75) -/

theorem toNat_at32 {n : Nat} (h : n < 2 ^ 32) : (at32 n).toNat = n := by
  rw [at32, BitVec.toNat_ofNat, Nat.mod_eq_of_lt h]

/-- A read of word `k` of entry `i` of the transition window: the stored word below N, 0 from there on. -/
theorem busRead_transition_entry (s : State) {i k : Nat} (hi : i < 2 ^ 21) (hk : k = 0 ∨ k = 4) :
    s.busRead .word (at32 (transAddr i + k)) =
      s.readReturns (if i < s.nTrans.toNat then s.mem.readWord (transAddr i + k) else 0#32) := by
  have ha : (at32 (transAddr i + k)).toNat = transAddr i + k := toNat_at32 (by unfold transAddr; omega)
  have halign : (transAddr i + k) % 4 = 0 := by unfold transAddr; omega
  have hpast : registerBlockEnd ≤ transAddr i + k := by unfold transAddr registerBlockEnd; omega
  have hwindow : inTransitionWindow (transAddr i + k) = true := by
    rw [inTransitionWindow_iff]; unfold transAddr; omega
  have hentry : (transAddr i + k - 0x01000000) / 8 = i := by unfold transAddr; omega
  rw [busRead_past_registers s ha halign hpast, if_pos hwindow, State.transitionWord, hentry]

/-- A read of word `k` of record `i` of the event window: a draw while BUSY = 1, else the stored word below EVT_COUNT and
0 from there on. -/
theorem busRead_event_entry (s : State) {i k : Nat} (hi : i < 2 ^ 21) (hk : k = 0 ∨ k = 4) :
    s.busRead .word (at32 (eventAddr i + k)) =
      if s.busy then s.readDraw
      else s.readReturns (if i < s.evtCount.toNat then s.mem.readWord (eventAddr i + k) else 0#32) := by
  have ha : (at32 (eventAddr i + k)).toNat = eventAddr i + k := toNat_at32 (by unfold eventAddr; omega)
  have halign : (eventAddr i + k) % 4 = 0 := by unfold eventAddr; omega
  have hpast : registerBlockEnd ≤ eventAddr i + k := by unfold eventAddr registerBlockEnd; omega
  have hnot : ¬ inTransitionWindow (eventAddr i + k) = true := by
    rw [inTransitionWindow_iff]; unfold eventAddr; omega
  have hwindow : inEventWindow (eventAddr i + k) = true := by
    rw [inEventWindow_iff]; unfold eventAddr; omega
  have hentry : (eventAddr i + k - 0x02000000) / 8 = i := by unfold eventAddr; omega
  rw [busRead_past_registers s ha halign hpast, if_neg hnot, if_pos hwindow, State.eventWord, hentry]

/-! ## The step of a due host operation (R79) -/

@[simp] theorem hardwarePublishes_inReset (s : State) : s.hardwarePublishes.inReset = s.inReset := by
  obtain ⟨_, _, e⟩ := hardwarePublishes_shape s
  rw [e]

/-- A step whose host operation is due, with no reset event before it, is the host's turn after PROGRESS is published. -/
theorem step_of_due_host {s : State} {op : HostOp} {rest : List HostSlot} (hp : s.platform = [])
    (hh : s.host = { delay := 0, op := op } :: rest) :
    step s = hostTurn op { s.hardwarePublishes with host := rest, turn := .host } := by
  simp only [step, anyTurn, hp, agentsTurn, hh, if_true]

theorem hostTurn_write {s : State} (h : s.inReset = false) (b : BusWrite) : hostTurn (.write b) s = deliver b s := by
  simp [hostTurn, h]

theorem step_of_due_write {s : State} {b : BusWrite} {rest : List HostSlot} (hp : s.platform = [])
    (hr : s.inReset = false) (hh : s.host = { delay := 0, op := .write b } :: rest) :
    step s = deliver b { s.hardwarePublishes with host := rest, turn := .host } := by
  rw [step_of_due_host hp hh, hostTurn_write (by simpa using hr)]

end Sys2Proof.Machine
end

section
/-! CERTIFICATE. The statements about the bus: window reads, the delivery of a host write, and refused accesses
(spec/20_memory.md R70 to R79). -/

namespace Sys2Proof.Certificates

open Sys2Proof.Machine Sys2Proof.Statement

/-- Settles O57: both words of an entry are read by one rule per window (`busRead_transition_entry`,
`busRead_event_entry`). -/
theorem windowsReadTheValidEntries : Obligations.WindowsReadTheValidEntries := by
  intro s i hi
  have value := busRead_transition_entry s hi (.inl rfl)
  have time := busRead_transition_entry s hi (.inr rfl)
  have evtTime := busRead_event_entry s hi (.inl rfl)
  have evtInfo := busRead_event_entry s hi (.inr rfl)
  refine ⟨fun hvalid => ?_, fun hbeyond => ?_, fun hidle => ⟨fun hvalid => ?_, fun hbeyond => ?_⟩, fun hbusy => ?_⟩
  · rw [if_pos hvalid] at value time
    refine ⟨value, time.trans ?_⟩
    rw [State.t, ← eq_at32 rfl]
    rfl
  · rw [if_neg (Nat.not_lt.2 hbeyond)] at value time
    exact ⟨value, time⟩
  · rw [if_neg (by simp [hidle]), if_pos hvalid] at evtTime evtInfo
    exact ⟨evtTime, evtInfo⟩
  · rw [if_neg (by simp [hidle]), if_neg (Nat.not_lt.2 hbeyond)] at evtTime evtInfo
    exact ⟨evtTime, evtInfo⟩
  · rw [if_pos hbusy] at evtTime evtInfo
    exact ⟨evtTime, evtInfo⟩

/-- Settles O4: the step delivers the write (`step_of_due_write`), and the delivery follows its decoding. -/
theorem stepDeliversTheHostWrite : Obligations.StepDeliversTheHostWrite := by
  intro s b rest hp hr hh
  rw [step_of_due_write hp hr hh]
  exact ⟨fun i hi => deliver_of_operation hi _, fun r hrej => deliver_of_rejected hrej _⟩

/-- Settles O56: a refused read is `busRead_refused`, a refused write and one to a window `deliver_refused`. -/
theorem refusedAccessesOnlySetBusError : Obligations.RefusedAccessesOnlySetBusError := by
  refine fun s size a data => ⟨fun h => ⟨busRead_refused h s, ?_⟩, fun hlo _ => ?window, fun o ho => ?readOnly⟩
  · exact deliver_refused (not_register_access_of_refused h) s
  case window =>
    have hpast : registerBlockEnd ≤ a.toNat := by unfold registerBlockEnd; omega
    exact deliver_refused (.inr (.inr (not_holdsRegister_of_ge hpast))) s
  case readOnly => exact deliver_of_rejected (decodeWrite_readOnly ho data) s

end Sys2Proof.Certificates
end

section
/-! SUPPORT. The decoder and the encoder as each other's inverse (spec/30_encoding.md R90 to R95): the fields of a
command word, the command map, the register map, and a bus write as a whole. -/

namespace Sys2Proof.Machine

/-! ## The command word (R90) -/

@[simp] theorem cmdOpc_append (rsvd : BitVec 24) (opc : BitVec 8) : cmdOpc (rsvd ++ opc) = opc :=
  BitVec.extractLsb'_append_eq_right

@[simp] theorem cmdRsvd_append (rsvd : BitVec 24) (opc : BitVec 8) : cmdRsvd (rsvd ++ opc) = rsvd :=
  BitVec.extractLsb'_append_eq_left

theorem cmdRsvd_append_cmdOpc (w : Word) : cmdRsvd w ++ cmdOpc w = w := by
  apply BitVec.eq_of_toNat_eq
  simp only [cmdRsvd, cmdOpc, toNat_append_eq_add, toNat_field]
  omega

/-- The encoder of a command gives back every command word from its two fields. -/
theorem encodeCmd_fields (w : Word) : encodeCmd (cmdOpc w) (cmdRsvd w) = wordWrite cmdOffset w := by
  rw [encodeCmd, cmdRsvd_append_cmdOpc]

theorem reservedCommand_iff {opc : BitVec 8} {rsvd : BitVec 24} :
    reservedCommand opc rsvd = true ↔ rsvd ≠ 0#24 ∨ 8 ≤ opc.toNat := by
  simp [reservedCommand]

theorem reservedCommand_eq_false_iff {opc : BitVec 8} {rsvd : BitVec 24} :
    reservedCommand opc rsvd = false ↔ rsvd = 0#24 ∧ opc.toNat < 8 := by
  simp [reservedCommand]

/-- The reserved command words as numbers: bits 31:8 not all 0, or bits 7:0 past the last opcode (R92). -/
theorem reservedCommand_fields_iff (w : Word) :
    reservedCommand (cmdOpc w) (cmdRsvd w) = true ↔ w.toNat / 256 ≠ 0 ∨ 8 ≤ w.toNat % 256 := by
  have hw := w.isLt
  rw [reservedCommand_iff, cmdOpc, cmdRsvd, Ne, ← BitVec.toNat_inj, toNat_field, toNat_low_field, BitVec.toNat_ofNat]
  omega

/-! ## The command map (R91, R92) -/

/-- A command word decodes to `illegalCmd` only where it is reserved, and then with its own fields. -/
theorem decodeCmd_eq_illegalCmd_iff {w : Word} {opc : BitVec 8} {rsvd : BitVec 24} :
    decodeCmd w = .illegalCmd opc rsvd ↔
      reservedCommand (cmdOpc w) (cmdRsvd w) = true ∧ cmdOpc w = opc ∧ cmdRsvd w = rsvd := by
  unfold decodeCmd
  split_ifs with h
  · simp [h]
  · split <;> simp [h]

/-- The eight command words that are not reserved are the encodings of what they decode to. -/
theorem encode_decodeCmd_of_opcode {opc : BitVec 8} (h : opc.toNat < 8) :
    encode (decodeCmd (0#24 ++ opc)) = encodeCmd opc 0#24 := by
  obtain ⟨n, hn, rfl⟩ : ∃ n < 8, opc = BitVec.ofNat 8 n := ⟨opc.toNat, h, by simp⟩
  interval_cases n <;> rfl

theorem encode_decodeCmd (w : Word) : encode (decodeCmd w) = wordWrite cmdOffset w := by
  rw [← encodeCmd_fields w]
  cases h : reservedCommand (cmdOpc w) (cmdRsvd w) with
  | true => rw [decodeCmd_eq_illegalCmd_iff.2 ⟨h, rfl, rfl⟩, encode]
  | false =>
    obtain ⟨hrsvd, hopc⟩ := reservedCommand_eq_false_iff.1 h
    conv_lhs => rw [← cmdRsvd_append_cmdOpc w]
    rw [hrsvd]
    exact encode_decodeCmd_of_opcode hopc

theorem wellFormed_decodeCmd (w : Word) : (decodeCmd w).wellFormed = true := by
  cases h : decodeCmd w with
  | illegalCmd opc rsvd =>
    obtain ⟨hres, rfl, rfl⟩ := decodeCmd_eq_illegalCmd_iff.1 h
    exact hres
  | _ => rfl

/-! ## The register map (R94) -/

theorem decodeMmio_cmdOffset (w : Word) : decodeMmio cmdOffset w = none := rfl

/-- A row of the register map stands at an aligned offset, and its operation is encoded as the write it is read from. -/
theorem encode_of_decodeMmio {a : Nat} {w : Word} {i : Instr} (h : decodeMmio a w = some i) :
    a % 4 = 0 ∧ encode i = wordWrite a w ∧ i.wellFormed = true := by
  unfold decodeMmio at h
  split at h <;> cases h <;> exact ⟨rfl, rfl, rfl⟩

/-! ## A bus write (R95) -/

/-- A word write is given by its address as an offset and its data. -/
theorem eq_wordWrite {b : BusWrite} (h : b.size = .word) : b = wordWrite b.addr.toNat b.data := by
  obtain ⟨size, addr, data⟩ := b
  cases h
  simp [wordWrite]

theorem decodeWrite_cmd (w : Word) : decodeWrite (wordWrite cmdOffset w) = .operation (decodeCmd w) := by
  simp [decodeWrite, wordWrite, cmdOffset]

theorem decodeWrite_of_decodeMmio {a : Nat} {w : Word} {i : Instr} (h : decodeMmio a w = some i) :
    decodeWrite (wordWrite a w) = .operation i := by
  obtain ⟨hbound, -⟩ := holdsRegister_of_decodeMmio h
  obtain ⟨halign, -⟩ := encode_of_decodeMmio h
  have hcmd : a ≠ cmdOffset := by
    rintro rfl
    simp [decodeMmio_cmdOffset] at h
  have haddr : (BitVec.ofNat 32 a).toNat = a := by
    unfold registerBlockEnd at hbound
    rw [BitVec.toNat_ofNat, Nat.mod_eq_of_lt (by omega)]
  simp [decodeWrite, wordWrite, haddr, halign, hcmd, h]

/-- The writes that are an operation: aligned word writes, to CMD or to a writable register of the register map. -/
theorem decodeWrite_cases {b : BusWrite} {i : Instr} (h : decodeWrite b = .operation i) :
    (b = wordWrite cmdOffset b.data ∧ i = decodeCmd b.data) ∨
      (b = wordWrite b.addr.toNat b.data ∧ decodeMmio b.addr.toNat b.data = some i) := by
  by_cases hsize : b.size = .word
  case neg => simp [decodeWrite, hsize] at h
  by_cases halign : b.addr.toNat % 4 = 0
  case neg => simp [decodeWrite, hsize, halign] at h
  have hb := eq_wordWrite hsize
  by_cases hcmd : b.addr.toNat = cmdOffset
  · rw [hcmd] at hb
    rw [hb, decodeWrite_cmd] at h
    exact .inl ⟨hb, (Decoded.operation.inj h).symm⟩
  · cases hmmio : decodeMmio b.addr.toNat b.data with
    | none => simp [decodeWrite_not_writable rfl hsize halign hcmd hmmio] at h
    | some j =>
      rw [hb, decodeWrite_of_decodeMmio hmmio] at h
      exact .inr ⟨hb, congrArg some (Decoded.operation.inj h)⟩

end Sys2Proof.Machine
end

section
/-! SUPPORT. The fields of an event record (spec/30_encoding.md R100 to R102). -/

namespace Sys2Proof.Machine

/-- KIND as a number: the top bit of INFO. -/
theorem infoIsLine_iff (info : Word) : infoIsLine info = true ↔ 2 ^ 31 ≤ info.toNat := by
  rw [infoIsLine, ← BitVec.msb_eq_getLsbD_last, BitVec.msb_eq_decide]
  simp

theorem infoIsError_iff (info : Word) :
    infoIsError info = true ↔ 3 ≤ (infoLabel info).toNat ∧ (infoLabel info).toNat ≤ 5 := by
  simp [infoIsError]

/-- The codes 3 to 5 of R102 are those of the three errors. -/
theorem Label.code_error_iff (l : Label) :
    3 ≤ l.code.toNat ∧ l.code.toNat ≤ 5 ↔ l = .startErr ∨ l = .parityErr ∨ l = .frameErr := by
  cases l <;> decide

section
variable (time : Word) (r : Role) (x : BitVec 16) (l : Label)

theorem Event.toNat_info_data :
    (Event.data time r x).info.toNat = x.toNat + 2 ^ 16 * r.code.toNat := by
  simp only [Event.info, toNat_append_eq_add, BitVec.toNat_ofNat]
  omega

theorem Event.toNat_info_line :
    (Event.line time r l).info.toNat = 2 ^ 16 * r.code.toNat + 2 ^ 24 * l.code.toNat + 2 ^ 31 := by
  simp only [Event.info, toNat_append_eq_add, BitVec.toNat_ofNat]
  omega

theorem infoIsLine_data : infoIsLine (Event.data time r x).info = false := by
  have hr := r.code.isLt
  have hx := x.isLt
  rw [Bool.eq_false_iff, Ne, infoIsLine_iff, Event.toNat_info_data]
  omega

theorem infoIsLine_line : infoIsLine (Event.line time r l).info = true := by
  rw [infoIsLine_iff, Event.toNat_info_line]
  omega

theorem infoLabel_data : infoLabel (Event.data time r x).info = 0#7 := by
  have hr := r.code.isLt
  have hx := x.isLt
  apply BitVec.eq_of_toNat_eq
  rw [infoLabel, toNat_field, Event.toNat_info_data, BitVec.toNat_ofNat]
  omega

theorem infoLabel_line : infoLabel (Event.line time r l).info = l.code := by
  have hr := r.code.isLt
  have hl := l.code.isLt
  apply BitVec.eq_of_toNat_eq
  rw [infoLabel, toNat_field, Event.toNat_info_line]
  omega

theorem infoIsError_data : infoIsError (Event.data time r x).info = false := by
  rw [Bool.eq_false_iff, Ne, infoIsError_iff, infoLabel_data]
  decide

theorem infoIsError_line_iff :
    infoIsError (Event.line time r l).info = true ↔ l = .startErr ∨ l = .parityErr ∨ l = .frameErr := by
  rw [infoIsError_iff, infoLabel_line, Label.code_error_iff]

end

end Sys2Proof.Machine
end

section
/-! CERTIFICATE. The statements about encodings: bus writes and operations (spec/30_encoding.md R90 to R95), and event
records (R100 to R102). -/

namespace Sys2Proof.Certificates

open Sys2Proof.Machine

/-- Settles O1: a command word is taken apart into its two fields, a register write goes through the register map. -/
theorem decodeOfEncodeIsTheOperation : Obligations.DecodeOfEncodeIsTheOperation := by
  intro i hwf
  cases i with
  | illegalCmd opc rsvd =>
    have hcmd : decodeCmd (rsvd ++ opc) = .illegalCmd opc rsvd :=
      decodeCmd_eq_illegalCmd_iff.2 (by simpa [Instr.wellFormed] using hwf)
    exact (decodeWrite_cmd _).trans (congrArg _ hcmd)
  | nop | storeClear | storeCommit | queryIndex | queryValue | estimateBaud | decodeSpi | decodeUart =>
    exact decodeWrite_cmd _
  | statusW1c w | ctrlWr w | arg0Wr w | stAbslenWr w | stTriggerWr w | stRateWr w | stCfgWr w | stEnmaskWr w
  | cursorCtlWr w | cursorAWr w | cursorBWr w | pushValueWr w | pushTs w | rawSample w | spiChWr w | spiModeWr w
  | uartCfgWr w | uartLines0Wr w | uartLines1Wr w =>
    exact decodeWrite_of_decodeMmio rfl

/-- Settles O2: a write that is an operation goes to CMD or to a register of the map (`decodeWrite_cases`). -/
theorem decodedWriteIsItsEncoding : Obligations.DecodedWriteIsItsEncoding := by
  intro b i h
  obtain ⟨hb, rfl⟩ | ⟨hb, hmmio⟩ := decodeWrite_cases h
  · exact ⟨(encode_decodeCmd b.data).trans hb.symm, wellFormed_decodeCmd b.data⟩
  · obtain ⟨-, hencode, hwf⟩ := encode_of_decodeMmio hmmio
    exact ⟨hencode.trans hb.symm, hwf⟩

/-- Settles O3: the vectors by evaluation, the reserved words by `decodeCmd_eq_illegalCmd_iff`. -/
theorem wordsOfTheSpecDecode : Obligations.WordsOfTheSpecDecode := by
  refine ⟨by decide, by decide, by decide, by decide, by decide, by decide, by decide, fun w => ?_⟩
  rw [← reservedCommand_fields_iff]
  simp [decodeCmd_eq_illegalCmd_iff]

/-- Settles O58: INFO as a number, and its KIND and LABEL read back from that number. -/
theorem eventRecordFields : Obligations.EventRecordFields :=
  ⟨fun time r x => ⟨rfl, Event.toNat_info_data time r x⟩,
    fun time r l => ⟨rfl, Event.toNat_info_line time r l⟩,
    rfl, rfl, fun time r x => ⟨infoIsLine_data time r x, infoIsError_data time r x⟩,
    fun time r l => ⟨infoIsLine_line time r l, infoIsError_line_iff time r l⟩⟩

end Sys2Proof.Certificates
end

section
/-! SUPPORT. The waveform store (spec/40_store.md): the entries of the transition memory after an append, the load
writes and STORE_COMMIT by their cases, and the index of R126. -/

namespace Sys2Proof.Machine

open Sys2Proof.Safety Sys2Proof.Statement

/-! ## Entries of the transition memory (R46, R73) -/

section
variable {s : State} (hm : s.mem.wf = true) (v w : Word)
include hm

theorem v_appendTransition_same : (s.appendTransition v w).v s.nTrans.toNat = v := by
  rw [State.v, State.appendTransition_mem, Memory.readWord_writeWord_of_ne (Memory.writeWord_wf hm _ _) _ (by omega),
    Memory.readWord_writeWord_same hm]

theorem t_appendTransition_same : (s.appendTransition v w).t s.nTrans.toNat = w.toNat := by
  rw [State.t, State.appendTransition_mem, Memory.readWord_writeWord_same (Memory.writeWord_wf hm _ _)]

/-- A byte outside entry N reads as before an append. -/
theorem readByte_appendTransition {a : Nat}
    (h : a < transAddr s.nTrans.toNat ∨ transAddr s.nTrans.toNat + 8 ≤ a) :
    (s.appendTransition v w).mem.readByte a = s.mem.readByte a := by
  rw [State.appendTransition_mem, Memory.readByte_writeWord_of_ne (Memory.writeWord_wf hm _ _) _ (by omega),
    Memory.readByte_writeWord_of_ne hm _ (by omega)]

/-- A word outside entry N reads as before an append. -/
theorem readWord_appendTransition {a : Nat}
    (h : a + 4 ≤ transAddr s.nTrans.toNat ∨ transAddr s.nTrans.toNat + 8 ≤ a) :
    (s.appendTransition v w).mem.readWord a = s.mem.readWord a := by
  rw [State.appendTransition_mem, Memory.readWord_writeWord_of_ne (Memory.writeWord_wf hm _ _) _ (by omega),
    Memory.readWord_writeWord_of_ne hm _ (by omega)]

theorem v_appendTransition_of_lt {i : Nat} (hi : i < s.nTrans.toNat) : (s.appendTransition v w).v i = s.v i :=
  readWord_appendTransition hm v w (by unfold transAddr; omega)

theorem t_appendTransition_of_lt {i : Nat} (hi : i < s.nTrans.toNat) : (s.appendTransition v w).t i = s.t i :=
  congrArg BitVec.toNat (readWord_appendTransition hm v w (by unfold transAddr; omega))

end

/-! ## The load writes (R117, R119) -/

theorem exec_pushTs (w : Word) (s : State) : exec (.pushTs w) s = .next (storeLocked s (s.push w)) := rfl

theorem exec_rawSample (w : Word) (s : State) : exec (.rawSample w) s = .next (storeLocked s (s.pushRaw w)) := rfl

section
variable {s : State} (w : Word)

theorem push_of_overflowed (h : s.loadOvf = true) : s.push w = s := if_pos h

theorem push_of_raw (ho : s.loadOvf = false) (hm : s.loadMode = .raw) : s.push w = { s with loadMixed := true } := by
  simp [State.push, ho, hm]

theorem push_of_full (ho : s.loadOvf = false) (hm : s.loadMode ≠ .raw) (hn : s.nTrans = s.nMax) :
    s.push w = { s with loadMode := .push, loadOvf := true } := by
  simp [State.push, ho, hm, hn]

theorem push_of_free (ho : s.loadOvf = false) (hm : s.loadMode ≠ .raw) (hn : s.nTrans ≠ s.nMax) :
    s.push w = { s.appendTransition s.pushValue w with loadMode := .push } := by
  simp [State.push, ho, hm, hn]

/-- A sample is new when it is the first or differs from the last value (R119). -/
theorem rawIsNew_iff : s.rawIsNew w = true ↔ s.nTrans = 0#32 ∨ w ≠ s.v (s.nTrans.toNat - 1) := by
  simp [State.rawIsNew]

theorem rawIsNew_eq_false_iff : s.rawIsNew w = false ↔ s.nTrans ≠ 0#32 ∧ w = s.v (s.nTrans.toNat - 1) := by
  rw [← Bool.not_eq_true, rawIsNew_iff, not_or, not_not]

theorem pushRaw_of_overflowed (h : s.loadOvf = true) : s.pushRaw w = s := if_pos h

theorem pushRaw_of_push (ho : s.loadOvf = false) (hm : s.loadMode = .push) :
    s.pushRaw w = { s with loadMixed := true } := by
  simp [State.pushRaw, ho, hm]

theorem pushRaw_of_counted_out (ho : s.loadOvf = false) (hm : s.loadMode ≠ .push) (hc : s.rawCount = 0xFFFFFFFF#32) :
    s.pushRaw w = { s with loadMode := .raw, loadOvf := true } := by
  simp [State.pushRaw, ho, hm, hc]

theorem pushRaw_of_equal (ho : s.loadOvf = false) (hm : s.loadMode ≠ .push) (hc : s.rawCount ≠ 0xFFFFFFFF#32)
    (hw : s.rawIsNew w = false) : s.pushRaw w = { s with loadMode := .raw, rawCount := s.rawCount + 1#32 } := by
  simp [State.pushRaw, ho, hm, hc, hw]

theorem pushRaw_of_full (ho : s.loadOvf = false) (hm : s.loadMode ≠ .push) (hc : s.rawCount ≠ 0xFFFFFFFF#32)
    (hw : s.rawIsNew w = true) (hn : s.nTrans = s.nMax) :
    s.pushRaw w = { s with loadMode := .raw, loadOvf := true } := by
  unfold State.pushRaw
  rw [if_neg (by simp [ho]), if_neg hm, if_neg hc, if_pos hw, if_pos hn]

theorem pushRaw_of_new (ho : s.loadOvf = false) (hm : s.loadMode ≠ .push) (hc : s.rawCount ≠ 0xFFFFFFFF#32)
    (hw : s.rawIsNew w = true) (hn : s.nTrans ≠ s.nMax) :
    s.pushRaw w =
      { s.appendTransition w s.rawCount with loadMode := .raw, rawCount := s.rawCount + 1#32 } := by
  unfold State.pushRaw
  rw [if_neg (by simp [ho]), if_neg hm, if_neg hc, if_pos hw, if_neg hn]

end

/-! ## Commands without iterations, in the sequencer's turn (R218, R233) -/

theorem commandStep_of_sequencer {s : State} (h : s.turn = .sequencer) (c : Command) (run : State → State) :
    commandStep c run s = .next (run s) := by
  simp [commandStep, h]

theorem completeWith_of_ok {body : State → Except ErrCode State} {s u : State} (h : body s = .ok u) :
    s.completeWith body = u.complete .ok := by
  simp [State.completeWith, h]

/-- A command that ends in an error changes the completion fields only (R234). -/
theorem completeWith_of_error {body : State → Except ErrCode State} {s : State} {e : ErrCode}
    (h : body s = .error e) : s.completeWith body = completed s e := by
  simp only [State.completeWith, h]
  rfl

section
variable {s : State} (h : s.turn = .sequencer)
include h

theorem exec_storeClear_of_sequencer : exec .storeClear s = .next (s.clearStore.complete .ok) :=
  commandStep_of_sequencer h .storeClear fun u => u.clearStore.complete .ok

theorem exec_storeCommit_of_sequencer : exec .storeCommit s = .next (s.completeWith State.tryCommit) :=
  commandStep_of_sequencer h _ _

theorem exec_queryIndex_of_sequencer : exec .queryIndex s = .next (s.completeWith State.queryIndex) :=
  commandStep_of_sequencer h _ _

theorem exec_queryValue_of_sequencer : exec .queryValue s = .next (s.completeWith State.queryValue) :=
  commandStep_of_sequencer h _ _

end

/-! ## STORE_COMMIT (R121, R122, R124) -/

/-- Every loaded timestamp is above the one before it (R111). -/
def State.Rising (s : State) : Prop := ∀ i < s.nTrans.toNat, 1 ≤ i → s.t (i - 1) < s.t i

/-- Every loaded value differs from the one before it (R111). -/
def State.Differing (s : State) : Prop := ∀ i < s.nTrans.toNat, 1 ≤ i → s.v (i - 1) ≠ s.v i

theorem mem_loadedInner {s : State} {i : Nat} : i ∈ s.loadedInner ↔ 1 ≤ i ∧ i < s.nTrans.toNat := by
  rw [State.loadedInner, List.mem_range'_1]
  omega

theorem loadedInner_any_order_iff (s : State) :
    s.loadedInner.any (fun i => decide (s.t i ≤ s.t (i - 1))) = true ↔ ¬ s.Rising := by
  simp only [List.any_eq_true, mem_loadedInner, decide_eq_true_eq, State.Rising, not_forall, Nat.not_lt, exists_prop]
  exact exists_congr fun i => by tauto

theorem loadedInner_any_equal_iff (s : State) :
    s.loadedInner.any (fun i => s.v i == s.v (i - 1)) = true ↔ ¬ s.Differing := by
  simp only [List.any_eq_true, mem_loadedInner, beq_iff_eq, State.Differing, not_forall, exists_prop, ne_eq, not_not,
    @eq_comm _ (s.v _) (s.v (_ - 1))]
  exact exists_congr fun i => by tauto

open scoped Classical in
/-- The checks of STORE_COMMIT as the invariants of R111 that they test, in the order of R121. -/
theorem tryCommit_eq (s : State) :
    s.tryCommit =
      if s.storeValid then .ok s
      else if s.loadOvf then .error .fmtCapacity
      else if s.loadMixed then .error .fmtMixed
      else if s.nTrans.toNat = 0 then .error .fmtEmpty
      else if s.t 0 ≠ 0 then .error .fmtT0
      else if ¬ s.Rising then .error .fmtOrder
      else if ¬ s.Differing then .error .fmtDup
      else if s.commitLength.toNat = 0 ∨ s.commitLength.toNat < s.t (s.nTrans.toNat - 1) then .error .fmtAbsLen
      else .ok (s.commit s.commitLength) := by
  have zero (w : Word) : w = 0#32 ↔ w.toNat = 0 := by rw [← BitVec.toNat_inj]; rfl
  simp only [State.tryCommit, loadedInner_any_order_iff, loadedInner_any_equal_iff, zero]

/-- What a load has to meet for STORE_COMMIT to succeed (R121). -/
structure Committable (s : State) : Prop where
  fits : s.loadOvf = false
  unmixed : s.loadMixed = false
  loaded : s.nTrans.toNat ≠ 0
  timeZero : s.t 0 = 0
  rising : s.Rising
  differing : s.Differing
  positive : s.commitLength.toNat ≠ 0
  covers : s.t (s.nTrans.toNat - 1) ≤ s.commitLength.toNat

theorem tryCommit_of_committable {s : State} (hv : s.storeValid = false) (h : Committable s) :
    s.tryCommit = .ok (s.commit s.commitLength) := by
  simp [tryCommit_eq, hv, h.fits, h.unmixed, h.loaded, h.timeZero, h.rising, h.differing, h.positive, h.covers]

/-- A commit succeeds on a store that is committed already, or on a load that meets every check. -/
theorem committable_of_tryCommit {s u : State} (h : s.tryCommit = .ok u) :
    (s.storeValid = true ∧ u = s) ∨ (Committable s ∧ u = s.commit s.commitLength) := by
  rw [tryCommit_eq] at h
  split_ifs at h with hv ho hx hn h0 hr hd hl
  · cases h; exact .inl ⟨hv, rfl⟩
  · cases h
    obtain ⟨hpos, hcov⟩ := not_or.1 hl
    exact .inr ⟨⟨by simpa using ho, by simpa using hx, hn, not_not.1 h0, hr, hd, hpos,
      Nat.le_of_not_lt hcov⟩, rfl⟩

theorem toNat_clampCursor (len v : Word) : (clampCursor len v).toNat = min v.toNat (len.toNat - 1) := by
  have hv := v.isLt
  rw [clampCursor, BitVec.toNat_ofNat, Nat.mod_eq_of_lt (by omega)]

/-- What a commit leaves meets the committed-store invariants (R111). -/
theorem Committable.storeInv {s : State} (h : Committable s) : StoreInv (s.commit s.commitLength) where
  nonEmpty := Nat.one_le_iff_ne_zero.2 h.loaded
  timeZero := h.timeZero
  rising := h.rising
  differs := h.differing
  covers := h.covers
  lengthPositive := Nat.one_le_iff_ne_zero.2 h.positive
  cursorA := by rw [State.commit_cursorA, toNat_clampCursor]; exact min_le_right _ _
  cursorB := by rw [State.commit_cursorB, toNat_clampCursor]; exact min_le_right _ _

theorem commitLength_of_raw {s : State} (h : s.loadMode = .raw) : s.commitLength = s.rawCount := if_pos h

theorem commitLength_of_not_raw {s : State} (h : s.loadMode ≠ .raw) : s.commitLength = s.absLen := if_neg h

/-- A raw load that lost no sample meets every check (the corner case of R121). -/
theorem committable_of_rawLoad {s : State} (h : RawLoadInv s) (hm : s.loadMode = .raw) (ho : s.loadOvf = false)
    (hx : s.loadMixed = false) : Committable s where
  fits := ho
  unmixed := hx
  loaded := Nat.one_le_iff_ne_zero.1 h.nonEmpty
  timeZero := h.timeZero
  rising := h.rising
  differing := h.differs
  positive := by have := h.counted; rw [commitLength_of_raw hm]; omega
  covers := by rw [commitLength_of_raw hm]; exact h.counted.le

/-! ## The index of R126 -/

theorem lastAtOrBefore_spec {time : Nat → Nat} {t n : Nat} (h0 : time 0 ≤ t) (hn : n ≠ 0) :
    lastAtOrBefore time t n < n ∧ time (lastAtOrBefore time t n) ≤ t ∧
      ∀ j, lastAtOrBefore time t n < j → j < n → t < time j := by
  induction n with
  | zero => exact absurd rfl hn
  | succ n ih =>
    rw [lastAtOrBefore]
    split
    · next h => exact ⟨Nat.lt_succ_self n, h, fun j _ _ => by omega⟩
    · next h =>
      have hn' : n ≠ 0 := by rintro rfl; exact h h0
      obtain ⟨hlt, hle, hlast⟩ := ih hn'
      refine ⟨Nat.lt_succ_of_lt hlt, hle, fun j hj hjn => ?_⟩
      obtain rfl | hj' : j = n ∨ j < n := by omega
      · omega
      · exact hlast j hj hj'

/-- In a committed store `sample_index_at` finds the index that R126 asks for, since `T[0] = 0`. -/
theorem isSampleIndex_sampleIndexAt {s : State} (h : StoreInv s) (t : Nat) :
    IsSampleIndex s t (s.sampleIndexAt t) :=
  lastAtOrBefore_spec (by rw [h.timeZero]; exact Nat.zero_le t) (Nat.one_le_iff_ne_zero.1 h.nonEmpty)

theorem isSampleIndex_unique {s : State} {t i j : Nat} (hi : IsSampleIndex s t i) (hj : IsSampleIndex s t j) :
    i = j := by
  obtain ⟨hin, hit, hilast⟩ := hi
  obtain ⟨hjn, hjt, hjlast⟩ := hj
  obtain hlt | heq | hgt := Nat.lt_trichotomy i j
  · exact absurd (hilast j hlt hjn) (Nat.not_lt.2 hjt)
  · exact heq
  · exact absurd (hjlast i hgt hin) (Nat.not_lt.2 hit)

/-! ## The check of both queries (R128, R130) -/

theorem checkQuery_of_open {s : State} (h : s.storeValid = false) : s.checkQuery = .error .noStore := by
  simp [State.checkQuery, h]

theorem checkQuery_of_range {s : State} (hv : s.storeValid = true) (h : s.absLen.toNat ≤ s.snap.arg0.toNat) :
    s.checkQuery = .error .range := by
  simp [State.checkQuery, State.abs, hv, h]

theorem checkQuery_of_inside {s : State} (hv : s.storeValid = true) (h : s.snap.arg0.toNat < s.absLen.toNat) :
    s.checkQuery = .ok (s.sampleIndexAt s.snap.arg0.toNat) := by
  simp [State.checkQuery, State.abs, hv, Nat.not_le.2 h]

theorem queries_of_checkQuery_error {s : State} {e : ErrCode} (ht : s.turn = .sequencer)
    (h : s.checkQuery = .error e) :
    exec .queryIndex s = .next (completed s e) ∧ exec .queryValue s = .next (completed s e) := by
  rw [exec_queryIndex_of_sequencer ht, exec_queryValue_of_sequencer ht,
    completeWith_of_error (e := e) (by simp [State.queryIndex, h]),
    completeWith_of_error (e := e) (by simp [State.queryValue, h])]
  exact ⟨rfl, rfl⟩

theorem queries_of_checkQuery_ok {s : State} {i : Nat} (ht : s.turn = .sequencer) (h : s.checkQuery = .ok i) :
    exec .queryIndex s = .next { completed s .ok with result0 := BitVec.ofNat 32 i } ∧
      exec .queryValue s = .next { completed s .ok with result0 := s.v i, result1 := BitVec.ofNat 32 i } := by
  have hindex : s.queryIndex = .ok { s with result0 := BitVec.ofNat 32 i } := by simp [State.queryIndex, h]
  have hvalue : s.queryValue = .ok { s with result0 := s.v i, result1 := BitVec.ofNat 32 i } := by
    simp [State.queryValue, h]
  rw [exec_queryIndex_of_sequencer ht, exec_queryValue_of_sequencer ht, completeWith_of_ok hindex,
    completeWith_of_ok hvalue]
  exact ⟨rfl, rfl⟩

end Sys2Proof.Machine
end

section
/-! CERTIFICATE. The statements about the waveform store: the load writes, STORE_CLEAR, STORE_COMMIT and the queries
(spec/40_store.md R115 to R130). -/

namespace Sys2Proof.Certificates

open Sys2Proof.Machine Sys2Proof.Safety Sys2Proof.Statement

/-- Settles O28: the completion step after the clear. -/
theorem storeClearEmptiesTheStore : Obligations.StoreClearEmptiesTheStore :=
  ⟨by decide, fun _ h => exec_storeClear_of_sequencer h⟩

/-- Settles O25: one case per branch of R117, the append by the laws of entry N. -/
theorem pushAppendsATransition : Obligations.PushAppendsATransition := by
  refine ⟨fun w => decodeWrite_of_decodeMmio (a := 0x068) rfl, fun s w h => ?_, fun s w hb hv hm => ?_⟩
  · rw [exec_pushTs, storeLocked_of_locked h]
  · rw [exec_pushTs, storeLocked_of_free hb hv]
    refine ⟨fun ho => ?_, fun ho hraw => ?_, fun ho hmode hfull => ?_, fun ho hmode hfree => ?_⟩
    · rw [push_of_overflowed w ho]
    · rw [push_of_raw w ho hraw]
    · rw [push_of_full w ho hmode hfull]
    · rw [push_of_free w ho hmode hfree]
      exact ⟨_, rfl, rfl, v_appendTransition_same hm _ _, t_appendTransition_same hm _ _,
        fun a ha => readByte_appendTransition hm _ _ ha⟩

/-- Settles O26: one case per branch of R119, the append by the laws of entry N. -/
theorem rawSampleCompresses : Obligations.RawSampleCompresses := by
  refine ⟨fun w => decodeWrite_of_decodeMmio (a := 0x06C) rfl, fun s w h => ?_, fun s w hb hv hm => ?_⟩
  · rw [exec_rawSample, storeLocked_of_locked h]
  · rw [exec_rawSample, storeLocked_of_free hb hv]
    refine ⟨fun ho => ?_, fun ho hpush => ?_, fun ho hmode hlast => ?_, fun ho hmode hcount =>
      ⟨fun hn heq => ?_, fun hnew hfull => ?_, fun hnew hfree => ?_⟩⟩
    · rw [pushRaw_of_overflowed w ho]
    · rw [pushRaw_of_push w ho hpush]
    · rw [pushRaw_of_counted_out w ho hmode hlast]
    · rw [pushRaw_of_equal w ho hmode hcount ((rawIsNew_eq_false_iff w).2 ⟨hn, heq⟩)]
    · rw [pushRaw_of_full w ho hmode hcount ((rawIsNew_iff w).2 hnew) hfull]
    · rw [pushRaw_of_new w ho hmode hcount ((rawIsNew_iff w).2 hnew) hfree]
      exact ⟨_, rfl, rfl, v_appendTransition_same hm _ _, t_appendTransition_same hm _ _,
        fun a ha => readByte_appendTransition hm _ _ ha⟩

/-- Settles O29: each clause is one branch of `tryCommit_eq`. -/
theorem storeCommitChecksInOrder : Obligations.StoreCommitChecksInOrder := by
  refine ⟨by decide, fun s ht => ?_⟩
  have fails {e : ErrCode} (h : s.tryCommit = .error e) : exec .storeCommit s = .next (completed s e) := by
    rw [exec_storeCommit_of_sequencer ht, completeWith_of_error h]
  have succeeds {u : State} (h : s.tryCommit = .ok u) : exec .storeCommit s = .next (completed u .ok) := by
    rw [exec_storeCommit_of_sequencer ht, completeWith_of_ok h]
    rfl
  refine ⟨fun hv => succeeds ?_, fun hv ho => fails ?_, fun ⟨hv, ho⟩ hx => fails ?_,
    fun ⟨⟨hv, ho⟩, hx⟩ hn => fails ?_, fun ⟨⟨⟨hv, ho⟩, hx⟩, hn⟩ h0 => fails ?_,
    fun ⟨⟨⟨hv, ho⟩, hx⟩, hn⟩ h0 hr => fails ?_, fun ⟨⟨⟨hv, ho⟩, hx⟩, hn⟩ h0 hr hd => fails ?_,
    fun ⟨⟨⟨hv, ho⟩, hx⟩, hn⟩ h0 hr hd hl => fails ?_,
    fun ⟨⟨⟨hv, ho⟩, hx⟩, hn⟩ h0 hr hd hl hc => succeeds (tryCommit_of_committable hv ⟨ho, hx, hn, h0, hr, hd, hl, hc⟩)⟩
  · simp [tryCommit_eq, hv]
  · simp [tryCommit_eq, hv, ho]
  · simp [tryCommit_eq, hv, ho, hx]
  · simp [tryCommit_eq, hv, ho, hx, hn]
  · simp [tryCommit_eq, hv, ho, hx, hn, h0]
  · have hr' : ¬ s.Rising := hr
    simp [tryCommit_eq, hv, ho, hx, hn, h0, hr']
  · have hr' : s.Rising := hr
    have hd' : ¬ s.Differing := hd
    simp [tryCommit_eq, hv, ho, hx, hn, h0, hr', hd']
  · have hr' : s.Rising := hr
    have hd' : s.Differing := hd
    rw [tryCommit_eq]
    simp only [hv, ho, hx, hn, h0, hr', hd', Bool.false_eq_true, if_false, ne_eq, not_true]
    exact if_pos hl

/-- Settles O30: a raw load that lost no sample is `Committable`, and a commit leaves the invariants of R111. -/
theorem rawLoadAlwaysCommits : Obligations.RawLoadAlwaysCommits := by
  intro s hinv ht hv hm ho hx
  have hc := committable_of_rawLoad (hinv.load.raw hm) hm ho hx
  rw [exec_storeCommit_of_sequencer ht, completeWith_of_ok (tryCommit_of_committable hv hc)]
  exact ⟨_, rfl, rfl, rfl, commitLength_of_raw hm, { hc.storeInv with }⟩

/-- Settles O31: both queries share their check, and the index of R126 is unique. -/
theorem queriesAnswer : Obligations.QueriesAnswer := by
  refine ⟨by decide, by decide, fun s t i hs _ hi => ?_, fun s ht => ⟨fun hv => ?_, fun hv h => ?_, fun hv h hs => ?_⟩⟩
  · rw [State.valueAt, isSampleIndex_unique (isSampleIndex_sampleIndexAt hs t) hi]
  · exact queries_of_checkQuery_error ht (checkQuery_of_open hv)
  · exact queries_of_checkQuery_error ht (checkQuery_of_range hv h)
  · exact ⟨_, isSampleIndex_sampleIndexAt hs _, queries_of_checkQuery_ok ht (checkQuery_of_inside hv h)⟩

end Sys2Proof.Certificates
end

section
/-! SUPPORT. The invariant of the whole machine through every operation and every step (spec/40_store.md R111,
spec/44_sequencer.md R217 to R222, spec/60_exceptions.md R236). The state is cut into the parts that the invariant
reads; each operation is then a lemma that says which part it moves. -/

namespace Sys2Proof.Machine

open Sys2Proof.Safety Sys2Proof.Statement

/-! ## The parts of the state that the invariant reads -/

/-- The registers whose values `FieldInv` bounds. -/
def State.boundedFields (s : State) : Word × Word × Word × Word × BitVec 7 × BitVec 6 × SpiMode × UartCfg :=
  (s.nMax, s.eMax, s.nTrans, s.evtCount, s.progress, s.channels, s.spiMode, s.uartCfg)

/-- What `LoadInv` and `StoreInv` read beside the entries. -/
def State.storeRegisters (s : State) : Word × Word × Word × Bool × LoadMode × Bool × Bool × Word × Word :=
  (s.nTrans, s.rawCount, s.absLen, s.storeValid, s.loadMode, s.loadOvf, s.loadMixed, s.cursorA, s.cursorB)

/-- What `SequencerInv` reads of any command, running or not. -/
def State.control (s : State) : Seq × Bool × Bool × Bool × Bool × Bool :=
  (s.seq, s.cancelReq, s.cancelled, s.evtOvf, s.storeValid, s.inReset)

/-- What `SequencerInv` reads of a running command. -/
def State.operands (s : State) : Bool × ErrCode × Snapshot × Snapshot := (s.done, s.errCode, s.snap, s.snapshot)

/-- `t` has the store of `s`: its registers, and every word below the event window. -/
structure SameStore (s t : State) : Prop where
  words : ∀ x, x + 4 ≤ eventAddr 0 → t.mem.readWord x = s.mem.readWord x
  registers : t.storeRegisters = s.storeRegisters

theorem sameStore_of_mem_eq {s t : State} (hm : t.mem = s.mem := by rfl)
    (hr : t.storeRegisters = s.storeRegisters := by rfl) : SameStore s t :=
  ⟨fun _ _ => by rw [hm], hr⟩

/-- An entry of the transition window lies below the event window. -/
theorem SameStore.entry_eq {s t : State} (h : SameStore s t) {i : Nat} (hi : i < 2 ^ 21) :
    t.v i = s.v i ∧ t.t i = s.t i :=
  ⟨h.words _ (by unfold transAddr eventAddr; omega),
    congrArg BitVec.toNat (h.words _ (by unfold transAddr eventAddr; omega))⟩

theorem fieldInv_congr {s t : State} (h : FieldInv s) (e : t.boundedFields = s.boundedFields) : FieldInv t := by
  simp only [State.boundedFields, Prod.mk.injEq] at e
  obtain ⟨e1, e2, e3, e4, e5, e6, e7, e8⟩ := e
  constructor
  · rw [e1]; exact h.nMax
  · rw [e2]; exact h.eMax
  · rw [e1, e3]; exact h.nTrans
  · rw [e2, e4]; exact h.evtCount
  · rw [e5]; exact h.progress
  · rw [e6]; exact h.channels
  · rw [e7]; exact h.spiBits
  · rw [e8]; exact h.dataBits

theorem nTrans_le_window {s : State} (h : FieldInv s) : s.nTrans.toNat ≤ 2 ^ 21 := h.nTrans.trans h.nMax.2

section
variable {s t : State} (hst : SameStore s t) (hn : s.nTrans.toNat ≤ 2 ^ 21)
include hst hn

theorem rawLoadInv_congr (h : RawLoadInv s) : RawLoadInv t := by
  obtain ⟨-, hr⟩ := id hst
  simp only [State.storeRegisters, Prod.mk.injEq] at hr
  obtain ⟨e, ec, -⟩ := hr
  have hpos := h.nonEmpty
  have entry {i : Nat} (hi : i < s.nTrans.toNat) : t.v i = s.v i ∧ t.t i = s.t i := hst.entry_eq (by omega)
  refine ⟨e ▸ hpos, (entry hpos).2.trans h.timeZero, fun i hi h1 => ?_, fun i hi h1 => ?_, ?_⟩
  · rw [e] at hi
    rw [(entry hi).2, (entry (by omega)).2]
    exact h.rising i hi h1
  · rw [e] at hi
    rw [(entry hi).1, (entry (by omega)).1]
    exact h.differs i hi h1
  · rw [e, ec, (entry (by omega)).2]
    exact h.counted

theorem storeInv_congr (h : StoreInv s) : StoreInv t := by
  obtain ⟨-, hr⟩ := id hst
  simp only [State.storeRegisters, Prod.mk.injEq] at hr
  obtain ⟨e, -, ea, -, -, -, -, eA, eB⟩ := hr
  have hpos := h.nonEmpty
  have entry {i : Nat} (hi : i < s.nTrans.toNat) : t.v i = s.v i ∧ t.t i = s.t i := hst.entry_eq (by omega)
  have eabs : t.abs = s.abs := congrArg BitVec.toNat ea
  refine ⟨e ▸ hpos, (entry hpos).2.trans h.timeZero, fun i hi h1 => ?_, fun i hi h1 => ?_, ?_, eabs ▸ h.lengthPositive,
    ?_, ?_⟩
  · rw [e] at hi
    rw [(entry hi).2, (entry (by omega)).2]
    exact h.rising i hi h1
  · rw [e] at hi
    rw [(entry hi).1, (entry (by omega)).1]
    exact h.differs i hi h1
  · rw [e, eabs, (entry (by omega)).2]
    exact h.covers
  · rw [eA, eabs]; exact h.cursorA
  · rw [eB, eabs]; exact h.cursorB

theorem loadInv_congr (h : LoadInv s) : LoadInv t := by
  obtain ⟨-, hr⟩ := id hst
  simp only [State.storeRegisters, Prod.mk.injEq] at hr
  obtain ⟨e, ec, -, ev, em, eo, ex, -⟩ := hr
  refine ⟨fun hm => ?_, fun hm => rawLoadInv_congr hst hn (h.raw (em ▸ hm)), fun hv => ?_⟩
  · rw [e, ec]; exact h.fresh (em ▸ hm)
  · rw [eo, ex]; exact h.committed (ev ▸ hv)

end

/-- What a running command needs is asked anew; the rest of the sequencer's invariant reads `control` only. -/
theorem sequencerInv_congr {s t : State} (h : SequencerInv s) (e : t.control = s.control)
    (hrun : t.busy = true → t.done = false ∧ t.errCode = .ok ∧ t.snap = t.snapshot) : SequencerInv t := by
  simp only [State.control, Prod.mk.injEq] at e
  obtain ⟨e1, e2, e3, e4, e5, e6⟩ := e
  constructor
  · exact hrun
  · rw [e1, e2]; exact h.request
  · rw [e3, e4]; exact h.oneStop
  · rw [e1, e3, e4]; exact h.notStopped
  · rw [e1, e5]; exact h.committed
  · rw [e1, e6]; exact h.resetIdle

theorem sequencerInv_of_idle {t : State} (hseq : t.seq = .idle) (hreq : t.cancelReq = false)
    (hstop : ¬(t.cancelled = true ∧ t.evtOvf = true)) : SequencerInv t where
  running hb := by simp [State.busy, Seq.command, hseq] at hb
  request h := by simp [hreq] at h
  oneStop := hstop
  notStopped h := by simp [iterating, hseq] at h
  committed h := by simp [Seq.scanning, hseq] at h
  resetIdle _ := hseq

/-! ## How a part is moved -/

section
variable {s t : State}

/-- The store stays; fields and sequencer are shown anew. -/
theorem inv_of_sameStore (h : Inv s) (hwf : t.mem.wf = true) (hst : SameStore s t) (hf : FieldInv t)
    (hq : SequencerInv t) : Inv t where
  memory := hwf
  fields := hf
  load := loadInv_congr hst (nTrans_le_window h.fields) h.load
  store hv := by
    have hr := hst.registers
    simp only [State.storeRegisters, Prod.mk.injEq] at hr
    obtain ⟨-, -, -, ev, -⟩ := hr
    exact storeInv_congr hst (nTrans_le_window h.fields) (h.store (ev ▸ hv))
  sequencer := hq

/-- A change of nothing that the invariant reads. -/
theorem inv_congr (h : Inv s) (hm : t.mem = s.mem := by rfl) (hr : t.storeRegisters = s.storeRegisters := by rfl)
    (hf : t.boundedFields = s.boundedFields := by rfl) (hc : t.control = s.control := by rfl)
    (ho : t.operands = s.operands := by rfl) : Inv t := by
  refine inv_of_sameStore h (hm ▸ h.memory) (sameStore_of_mem_eq hm hr) (fieldInv_congr h.fields hf)
    (sequencerInv_congr h.sequencer hc fun hb => ?_)
  simp only [State.operands, State.control, Prod.mk.injEq] at ho hc
  obtain ⟨e1, e2, e3, e4⟩ := ho
  obtain ⟨eseq, -⟩ := hc
  rw [e1, e2, e3, e4]
  exact h.sequencer.running (by rwa [State.busy, eseq] at hb)

theorem not_busy_congr (hb : s.busy = false) (hc : t.control = s.control) : t.busy = false := by
  simp only [State.control, Prod.mk.injEq] at hc
  obtain ⟨eseq, -⟩ := hc
  rwa [State.busy, eseq]

theorem sequencerInv_of_idle_write (h : SequencerInv s) (hb : s.busy = false) (hc : t.control = s.control) :
    SequencerInv t :=
  sequencerInv_congr h hc fun ht => by simp [not_busy_congr hb hc] at ht

/-- A write that the busy lock lets through may change operands, but not the store. -/
theorem inv_of_operand_write (h : Inv s) (hb : s.busy = false) (hf : FieldInv t) (hm : t.mem = s.mem := by rfl)
    (hr : t.storeRegisters = s.storeRegisters := by rfl) (hc : t.control = s.control := by rfl) : Inv t :=
  inv_of_sameStore h (hm ▸ h.memory) (sameStore_of_mem_eq hm hr) hf (sequencerInv_of_idle_write h.sequencer hb hc)

/-- A write that the store lock lets through may change the load. -/
theorem inv_of_load_write (h : Inv s) (hb : s.busy = false) (hv : s.storeValid = false) (hwf : t.mem.wf = true)
    (hf : FieldInv t) (hl : LoadInv t) (hc : t.control = s.control := by rfl) : Inv t where
  memory := hwf
  fields := hf
  load := hl
  store ht := by
    simp only [State.control, Prod.mk.injEq] at hc
    obtain ⟨-, -, -, -, ev, -⟩ := hc
    simp [ev, hv] at ht
  sequencer := sequencerInv_of_idle_write h.sequencer hb hc

/-- A running decode goes on: the store stays, the sequencer is still in a decode, and it iterates only without a
stop. -/
theorem inv_of_decode_step (h : Inv s) (hb : s.busy = true) (hv : s.storeValid = true) (hwf : t.mem.wf = true)
    (hst : SameStore s t) (hf : FieldInv t) (hdecode : t.seq.isDecode = true)
    (hstop : ¬(t.cancelled = true ∧ t.evtOvf = true))
    (hiter : iterating t.seq = true → t.cancelled = false ∧ t.evtOvf = false)
    (ho : t.operands = s.operands := by rfl) (hreset : t.inReset = s.inReset := by rfl) : Inv t := by
  refine inv_of_sameStore h hwf hst hf ⟨fun _ => ?_, fun _ => hdecode, hstop, hiter, fun _ => ?_, fun hr => ?_⟩
  · simp only [State.operands, Prod.mk.injEq] at ho
    obtain ⟨e1, e2, e3, e4⟩ := ho
    rw [e1, e2, e3, e4]
    exact h.sequencer.running hb
  · have hr := hst.registers
    simp only [State.storeRegisters, Prod.mk.injEq] at hr
    obtain ⟨-, -, -, ev, -⟩ := hr
    rw [ev, hv]
  · have hidle := h.sequencer.resetIdle (hreset ▸ hr)
    simp [State.busy, Seq.command, hidle] at hb

end

/-! ## Completion and acceptance (R216, R233) -/

theorem inv_complete {s : State} (h : Inv s) (c : ErrCode) : Inv (s.complete c) :=
  inv_of_sameStore h h.memory sameStore_of_mem_eq (fieldInv_congr h.fields rfl)
    (sequencerInv_of_idle rfl rfl h.sequencer.oneStop)

theorem finalCounts_progress_le {s : State} (h : s.progress.toNat ≤ 100) : s.finalCounts.progress.toNat ≤ 100 := by
  rw [State.finalCounts_progress]
  split
  · exact h
  · decide

theorem inv_completeDecode {s : State} (h : Inv s) : Inv s.completeDecode :=
  inv_of_sameStore h h.memory sameStore_of_mem_eq
    { h.fields with progress := finalCounts_progress_le h.fields.progress }
    (sequencerInv_of_idle rfl rfl h.sequencer.oneStop)

theorem inv_completeWith {body : State → Except ErrCode State} {s : State} (h : Inv s)
    (hbody : ∀ u, body s = .ok u → Inv (u.complete .ok)) : Inv (s.completeWith body) := by
  obtain ⟨u, hu, e⟩ | ⟨_, -, e⟩ := completeWith_cases body s <;> rw [e]
  · exact hbody u hu
  · exact inv_complete h _

theorem inv_acceptAny {s : State} (h : Inv s) (hr : s.inReset = false) (c : Command) : Inv (s.acceptAny c) := by
  refine inv_of_sameStore h h.memory sameStore_of_mem_eq (fieldInv_congr h.fields rfl)
    ⟨fun _ => ⟨rfl, rfl, rfl⟩, fun hreq => ?_, fun hstop => ?_, fun _ => ⟨rfl, rfl⟩, fun hs => ?_, fun hres => ?_⟩
  · simp at hreq
  · simp at hstop
  · simp [Seq.scanning] at hs
  · simp [hr] at hres

theorem inv_clearDecode {s : State} (h : Inv s) : Inv s.clearDecode :=
  inv_of_sameStore h h.memory sameStore_of_mem_eq
    { h.fields with evtCount := Nat.zero_le _, progress := Nat.zero_le _ }
    (sequencerInv_congr h.sequencer rfl h.sequencer.running)

theorem inv_writeCommand {s : State} (h : Inv s) (hr : s.inReset = false) (c : Command) : Inv (s.writeCommand c) := by
  obtain ⟨-, e⟩ | ⟨-, e⟩ := writeCommand_cases c s <;> rw [e]
  · exact inv_congr h
  · have hany := inv_acceptAny h hr c
    obtain ⟨-, e⟩ | ⟨-, e⟩ | ⟨-, -, e⟩ := accept_cases c s <;> rw [e]
    · exact inv_clearDecode hany
    · exact inv_congr (inv_clearDecode hany)
    · exact hany

/-! ## The store's commands (R115, R121) -/

theorem inv_storeClear {s : State} (h : Inv s) : Inv (s.clearStore.complete .ok) where
  memory := h.memory
  fields := { h.fields with nTrans := Nat.zero_le _, evtCount := Nat.zero_le _ }
  load := ⟨fun _ => ⟨rfl, rfl⟩, nofun, nofun⟩
  store := nofun
  sequencer := sequencerInv_of_idle rfl rfl h.sequencer.oneStop

theorem inv_commit {s : State} (h : Inv s) (hc : Committable s) : Inv ((s.commit s.commitLength).complete .ok) where
  memory := h.memory
  fields := { h.fields with }
  load := ⟨h.load.fresh, fun hm => { h.load.raw hm with }, fun _ => ⟨hc.fits, hc.unmixed⟩⟩
  store _ := { hc.storeInv with }
  sequencer := sequencerInv_of_idle rfl rfl h.sequencer.oneStop

theorem inv_tryCommit {s : State} (h : Inv s) : Inv (s.completeWith State.tryCommit) := by
  refine inv_completeWith h fun u hu => ?_
  obtain ⟨-, rfl⟩ | ⟨hc, rfl⟩ := committable_of_tryCommit hu
  · exact inv_complete h _
  · exact inv_commit h hc

/-! ## The load writes (R117, R119) -/

theorem toNat_add_one {w : Word} (h : w.toNat < 2 ^ 32 - 1) : (w + 1#32).toNat = w.toNat + 1 := by
  rw [BitVec.toNat_add, BitVec.toNat_ofNat]
  omega

theorem toNat_lt_of_ne_allOnes {w : Word} (h : w ≠ 0xFFFFFFFF#32) : w.toNat < 2 ^ 32 - 1 := by
  have hw := w.isLt
  have hne : w.toNat ≠ (0xFFFFFFFF#32 : Word).toNat := fun e => h (BitVec.eq_of_toNat_eq e)
  rw [BitVec.toNat_ofNat] at hne
  omega

/-- One more entry still fits below the capacity (R34). -/
theorem fieldInv_appended {s t : State} (h : FieldInv s) (hn : s.nTrans ≠ s.nMax)
    (e : t.boundedFields = { s with nTrans := s.nTrans + 1#32 }.boundedFields) : FieldInv t := by
  refine fieldInv_congr (s := { s with nTrans := s.nTrans + 1#32 }) { h with nTrans := ?_ } e
  have hle := h.nTrans
  have hmax := h.nMax
  have hne : s.nTrans.toNat ≠ s.nMax.toNat := fun e => hn (BitVec.eq_of_toNat_eq e)
  show (s.nTrans + 1#32).toNat ≤ s.nMax.toNat
  rw [toNat_add_one (by omega)]
  omega

theorem inv_push {s : State} (h : Inv s) (hb : s.busy = false) (hv : s.storeValid = false) (w : Word) :
    Inv (s.push w) := by
  have notCommitted {P : Prop} : s.storeValid = true → P := fun ht => by simp [hv] at ht
  cases ho : s.loadOvf with
  | true => rwa [push_of_overflowed w ho]
  | false =>
    by_cases hm : s.loadMode = .raw
    · rw [push_of_raw w ho hm]
      exact inv_of_load_write h hb hv h.memory { h.fields with }
        ⟨h.load.fresh, fun e => { h.load.raw e with }, notCommitted⟩
    · by_cases hn : s.nTrans = s.nMax
      · rw [push_of_full w ho hm hn]
        exact inv_of_load_write h hb hv h.memory { h.fields with } ⟨nofun, nofun, notCommitted⟩
      · rw [push_of_free w ho hm hn]
        exact inv_of_load_write h hb hv (appendTransition_wf h.memory _ _) (fieldInv_appended h.fields hn rfl)
          ⟨nofun, nofun, notCommitted⟩

/-- A sample equal to the last value keeps a raw load's invariant (R119). -/
theorem rawLoadInv_count {s : State} (h : RawLoadInv s) (hc : s.rawCount ≠ 0xFFFFFFFF#32) :
    RawLoadInv { s with loadMode := .raw, rawCount := s.rawCount + 1#32 } where
  nonEmpty := h.nonEmpty
  timeZero := h.timeZero
  rising := h.rising
  differs := h.differs
  counted := by
    show s.t (s.nTrans.toNat - 1) < (s.rawCount + 1#32).toNat
    rw [toNat_add_one (toNat_lt_of_ne_allOnes hc)]
    exact Nat.lt_succ_of_lt h.counted

/-- A new sample, appended with RAW_COUNT as its time, starts or keeps a raw load's invariant (R119). -/
theorem rawLoadInv_append {s : State} (hm : s.mem.wf = true) (w : Word)
    (h : (s.nTrans = 0#32 ∧ s.rawCount = 0#32) ∨ RawLoadInv s) (hc : s.rawCount ≠ 0xFFFFFFFF#32)
    (hw : s.rawIsNew w = true) (hn : s.nTrans.toNat < 2 ^ 21) :
    RawLoadInv { s.appendTransition w s.rawCount with loadMode := .raw, rawCount := s.rawCount + 1#32 } := by
  set u := s.appendTransition w s.rawCount with hu
  have hN : u.nTrans.toNat = s.nTrans.toNat + 1 := toNat_add_one (by omega)
  have newV : u.v s.nTrans.toNat = w := v_appendTransition_same hm _ _
  have newT : u.t s.nTrans.toNat = s.rawCount.toNat := t_appendTransition_same hm _ _
  have oldV {i : Nat} (hi : i < s.nTrans.toNat) : u.v i = s.v i := v_appendTransition_of_lt hm _ _ hi
  have oldT {i : Nat} (hi : i < s.nTrans.toNat) : u.t i = s.t i := t_appendTransition_of_lt hm _ _ hi
  have counted : u.t (u.nTrans.toNat - 1) < (s.rawCount + 1#32).toNat := by
    rw [hN, Nat.add_sub_cancel, newT, toNat_add_one (toNat_lt_of_ne_allOnes hc)]
    exact Nat.lt_succ_self _
  have nonEmpty : 1 ≤ u.nTrans.toNat := by omega
  obtain ⟨hzero, hcount⟩ | h := h
  · have hz : s.nTrans.toNat = 0 := by simp [hzero]
    rw [hz] at newT
    refine ⟨nonEmpty, newT.trans (by simp [hcount]), fun i hi h1 => ?_, fun i hi h1 => ?_, counted⟩
    all_goals
      have hi' : i < u.nTrans.toNat := hi
      omega
  · have hpos := h.nonEmpty
    have hdiff : w ≠ s.v (s.nTrans.toNat - 1) :=
      ((rawIsNew_iff w).1 hw).resolve_left fun e => by simp [e] at hpos
    refine ⟨nonEmpty, (oldT hpos).trans h.timeZero, fun i hi h1 => ?_, fun i hi h1 => ?_, counted⟩
    · show u.t (i - 1) < u.t i
      obtain hlt | rfl : i < s.nTrans.toNat ∨ i = s.nTrans.toNat := by
        have hi' : i < u.nTrans.toNat := hi
        omega
      · rw [oldT hlt, oldT (by omega)]; exact h.rising i hlt h1
      · rw [newT, oldT (by omega)]; exact h.counted
    · show u.v (i - 1) ≠ u.v i
      obtain hlt | rfl : i < s.nTrans.toNat ∨ i = s.nTrans.toNat := by
        have hi' : i < u.nTrans.toNat := hi
        omega
      · rw [oldV hlt, oldV (by omega)]; exact h.differs i hlt h1
      · rw [newV, oldV (by omega)]; exact hdiff.symm

/-- A load that is no push load is fresh or meets the raw load's invariant. -/
theorem fresh_or_rawLoadInv {s : State} (h : LoadInv s) (hm : s.loadMode ≠ .push) :
    (s.nTrans = 0#32 ∧ s.rawCount = 0#32) ∨ RawLoadInv s := by
  cases e : s.loadMode with
  | none => exact .inl (h.fresh e)
  | push => exact absurd e hm
  | raw => exact .inr (h.raw e)

theorem inv_pushRaw {s : State} (h : Inv s) (hb : s.busy = false) (hv : s.storeValid = false) (w : Word) :
    Inv (s.pushRaw w) := by
  have notCommitted {P : Prop} : s.storeValid = true → P := fun ht => by simp [hv] at ht
  have started (hm : s.loadMode ≠ .push) (hne : s.nTrans ≠ 0#32 ∨ s.rawCount ≠ 0#32) : RawLoadInv s :=
    (fresh_or_rawLoadInv h.load hm).resolve_left fun ⟨h0, hc⟩ => hne.elim (· h0) (· hc)
  have stop (hm : RawLoadInv s) : Inv { s with loadMode := .raw, loadOvf := true } :=
    inv_of_load_write h hb hv h.memory { h.fields with } ⟨nofun, fun _ => { hm with }, notCommitted⟩
  cases ho : s.loadOvf with
  | true => rwa [pushRaw_of_overflowed w ho]
  | false =>
    by_cases hm : s.loadMode = .push
    · rw [pushRaw_of_push w ho hm]
      exact inv_of_load_write h hb hv h.memory { h.fields with }
        ⟨h.load.fresh, fun e => { h.load.raw e with }, notCommitted⟩
    · by_cases hc : s.rawCount = 0xFFFFFFFF#32
      · rw [pushRaw_of_counted_out w ho hm hc]
        exact stop (started hm (.inr (by simp [hc])))
      · cases hw : s.rawIsNew w with
        | false =>
          rw [pushRaw_of_equal w ho hm hc hw]
          obtain ⟨hn, -⟩ := (rawIsNew_eq_false_iff w).1 hw
          exact inv_of_load_write h hb hv h.memory { h.fields with }
            ⟨nofun, fun _ => rawLoadInv_count (started hm (.inl hn)) hc, notCommitted⟩
        | true =>
          by_cases hn : s.nTrans = s.nMax
          · rw [pushRaw_of_full w ho hm hc hw hn]
            obtain ⟨hpos, -⟩ := h.fields.nMax
            refine stop (started hm (.inl fun h0 => ?_))
            simp [← hn, h0] at hpos
          · rw [pushRaw_of_new w ho hm hc hw hn]
            have hlt : s.nTrans.toNat < 2 ^ 21 := by
              have hne : s.nTrans.toNat ≠ s.nMax.toNat := fun e => hn (BitVec.eq_of_toNat_eq e)
              have hle := h.fields.nTrans
              have hmax := h.fields.nMax
              omega
            exact inv_of_load_write h hb hv (appendTransition_wf h.memory _ _) (fieldInv_appended h.fields hn rfl)
              ⟨nofun, fun _ => rawLoadInv_append h.memory w (fresh_or_rawLoadInv h.load hm) hc hw hlt, notCommitted⟩

/-! ## Emission (R172, R205, R221) -/

theorem emit_evtCount_le {s : State} (hmax : s.eMax.toNat ≤ 2 ^ 21) (h : s.evtCount.toNat ≤ s.eMax.toNat)
    (e : Event) : (s.emit e).evtCount.toNat ≤ s.eMax.toNat := by
  obtain ⟨-, h'⟩ | ⟨-, -, h'⟩ | ⟨-, hne, h'⟩ := emit_cases s e <;> rw [h']
  · exact h
  · exact h
  · have hne' : s.evtCount.toNat ≠ s.eMax.toNat := fun e => hne (BitVec.eq_of_toNat_eq e)
    show (s.evtCount + 1#32).toNat ≤ s.eMax.toNat
    rw [toNat_add_one (by omega)]
    omega

theorem emitAll_evtCount_le {s : State} (hmax : s.eMax.toNat ≤ 2 ^ 21) (h : s.evtCount.toNat ≤ s.eMax.toNat)
    (es : List Event) : (s.emitAll es).evtCount.toNat ≤ s.eMax.toNat := by
  induction es generalizing s with
  | nil => exact h
  | cons e es ih =>
    have heq : (s.emit e).eMax = s.eMax := by
      obtain ⟨_, _, _, h'⟩ := emit_shape s e
      rw [h']
    have := ih (s := s.emit e) (heq ▸ hmax) (heq ▸ emit_evtCount_le hmax h e)
    rwa [heq] at this

theorem fieldInv_emitAll {s : State} (h : FieldInv s) (es : List Event) : FieldInv (s.emitAll es) := by
  have hle := emitAll_evtCount_le h.eMax.2 h.evtCount es
  obtain ⟨_, _, _, e⟩ := emitAll_shape s es
  rw [e] at hle ⊢
  exact { h with evtCount := hle }

theorem sameStore_emitAll {s : State} (h : s.mem.wf = true) (es : List Event) : SameStore s (s.emitAll es) := by
  refine ⟨fun x hx => emitAll_readWord h es hx, ?_⟩
  obtain ⟨_, _, _, e⟩ := emitAll_shape s es
  rw [e]; rfl

/-- Emission changes neither the operands, nor the flags of a stop but EVT_OVF, nor the reset input. -/
theorem emitAll_frame (s : State) (es : List Event) :
    (s.emitAll es).operands = s.operands ∧ (s.emitAll es).cancelled = s.cancelled ∧
      (s.emitAll es).inReset = s.inReset := by
  obtain ⟨_, _, _, e⟩ := emitAll_shape s es
  rw [e]
  exact ⟨rfl, rfl, rfl⟩

/-! ## The decodes (R218 to R221) -/

/-- A decode with an iteration to come: it is past its error checks and has not met a stop. -/
structure Unstopped (s : State) : Prop where
  busy : s.busy = true
  committed : s.storeValid = true
  notCancelled : s.cancelled = false
  notOverflowed : s.evtOvf = false

theorem unstopped_of_iterating {s : State} (h : Inv s) (hi : iterating s.seq = true) (hv : s.storeValid = true) :
    Unstopped s := by
  obtain ⟨hc, ho⟩ := h.sequencer.notStopped hi
  refine ⟨?_, hv, hc, ho⟩
  cases hseq : s.seq <;> simp_all [State.busy, iterating, Seq.command]

/-- An iteration emits its events and leaves the sequencer in a decode that iterates only without an overflow. -/
theorem inv_emit_step {s : State} (h : Inv s) (hu : Unstopped s) (es : List Event) {q : Seq}
    (hq : q.isDecode = true) (hiter : iterating q = true → (s.emitAll es).evtOvf = false) :
    Inv { s.emitAll es with seq := q } := by
  obtain ⟨ho, hc, hr⟩ := emitAll_frame s es
  have hcancel : (s.emitAll es).cancelled = false := hc.trans hu.notCancelled
  refine inv_of_decode_step h hu.busy hu.committed (emitAll_wf h.memory es)
    { sameStore_emitAll h.memory es with } (fieldInv_congr (fieldInv_emitAll h.fields es) rfl) hq
    (fun hstop => ?_) (fun hi => ⟨hcancel, hiter hi⟩) ho hr
  simp [hcancel] at hstop

/-- A poll that sees the cancel leaves a decode with no iteration to come (R219). -/
theorem inv_cancel_step {s : State} (h : Inv s) (hu : Unstopped s) {q : Seq} (hq : q.isDecode = true)
    (hiter : iterating q = false) : Inv { s with cancelled := true, seq := q } := by
  refine inv_of_decode_step h hu.busy hu.committed h.memory sameStore_of_mem_eq (fieldInv_congr h.fields rfl) hq
    (fun hstop => ?_) (fun hi => ?_)
  · simp [hu.notOverflowed] at hstop
  · simp [hiter] at hi

theorem inv_spiEmit {s : State} (h : Inv s) (hu : Unstopped s) (scan : SpiScan) (es : List Event) :
    Inv (s.spiEmit scan es) := by
  unfold State.spiEmit
  dsimp only
  split
  · exact inv_emit_step h hu es rfl nofun
  · next ho => exact inv_emit_step h hu es rfl fun _ => by simpa using ho

theorem inv_spiStep {s : State} (h : Inv s) (hu : Unstopped s) (scan : SpiScan) : Inv (s.spiStep scan) := by
  unfold State.spiStep
  split_ifs
  · exact inv_completeDecode h
  · exact inv_cancel_step h hu rfl rfl
  · exact inv_spiEmit h hu _ _

theorem inv_spiBegin {s : State} (h : Inv s) (hi : iterating s.seq = true) : Inv s.spiBegin := by
  unfold State.spiBegin
  split_ifs with hv
  · exact inv_complete h _
  · split
    · exact inv_complete h _
    · exact inv_spiStep h (unstopped_of_iterating h hi (by simpa using hv)) _

theorem inv_runSpi {s : State} (h : Inv s) : Inv s.runSpi := by
  unfold State.runSpi
  split
  · next hseq => exact inv_spiBegin h (by rw [hseq]; rfl)
  · next hseq =>
    exact inv_spiStep h (unstopped_of_iterating h (by rw [hseq]; rfl) (h.sequencer.committed (by rw [hseq]; rfl))) _
  · exact inv_completeDecode h
  all_goals exact h

/-- An estimator run changes the line's flag and the scan state, and nothing else. -/
theorem uartEstimate_shape (s : State) (scan : UartScan) (role : Role) (ch : Nat) (rest : List UartItem) :
    ∃ rx tx scan',
      s.uartEstimate scan role ch rest = { s with noBaudRx := rx, noBaudTx := tx, seq := .uart scan' } := by
  cases role <;> exact ⟨_, _, _, rfl⟩

theorem inv_uartEstimate {s : State} (h : Inv s) (hu : Unstopped s) (scan : UartScan) (role : Role) (ch : Nat)
    (rest : List UartItem) : Inv (s.uartEstimate scan role ch rest) := by
  obtain ⟨_, _, _, e⟩ := uartEstimate_shape s scan role ch rest
  rw [e]
  exact inv_of_decode_step h hu.busy hu.committed h.memory sameStore_of_mem_eq (fieldInv_congr h.fields rfl) rfl
    h.sequencer.oneStop fun _ => ⟨hu.notCancelled, hu.notOverflowed⟩

theorem inv_uartEmit {s : State} (h : Inv s) (hu : Unstopped s) (scan : UartScan) (work : List UartItem)
    (es : List Event) : Inv (s.uartEmit scan work es) := by
  refine inv_emit_step h hu es rfl fun hi => ?_
  cases ho : (s.emitAll es).evtOvf with
  | false => rfl
  | true => simp [iterating, ho] at hi

theorem inv_uartFrame {s : State} (h : Inv s) (hu : Unstopped s) (scan : UartScan) (role : Role) (ch bd pos : Nat)
    (rest : List UartItem) : Inv (s.uartFrame scan role ch bd pos rest) := by
  unfold State.uartFrame
  split <;> exact inv_uartEmit h hu _ _ _

/-- The merge rewrites the event memory of a decode whose iterations are over (R204). -/
theorem inv_merge_step {s : State} (h : Inv s) (hb : s.busy = true) (hv : s.storeValid = true) (rx tx : Word) :
    Inv { s.merge with seq := .uartClosing rx tx } :=
  inv_of_decode_step h hb hv (merge_wf h.memory) ⟨fun _ hx => merge_readWord h.memory hx, rfl⟩
    (fieldInv_congr h.fields rfl) rfl h.sequencer.oneStop nofun

theorem inv_uartStep {s : State} (h : Inv s) (hb : s.busy = true) (hv : s.storeValid = true) (scan : UartScan)
    (hu : scan.work ≠ [] → Unstopped s) : Inv (s.uartStep scan) := by
  unfold State.uartStep
  split
  · exact inv_merge_step h hb hv _ _
  · next e => exact inv_uartEstimate h (hu (by simp [e])) _ _ _ _
  · next e =>
    split_ifs
    · exact inv_cancel_step h (hu (by simp [e])) rfl rfl
    · exact inv_uartFrame h (hu (by simp [e])) _ _ _ _ _ _
  · next e =>
    split_ifs
    · exact inv_cancel_step h (hu (by simp [e])) rfl rfl
    · exact inv_uartEmit h (hu (by simp [e])) _ _ _

theorem inv_uartBegin {s : State} (h : Inv s) (hi : iterating s.seq = true) : Inv s.uartBegin := by
  unfold State.uartBegin
  split_ifs with hv
  · exact inv_complete h _
  · have hu := unstopped_of_iterating h hi (by simpa using hv)
    exact inv_uartStep h hu.busy hu.committed _ fun _ => hu

theorem inv_runUart {s : State} (h : Inv s) : Inv s.runUart := by
  unfold State.runUart
  split
  · next hseq => exact inv_uartBegin h (by rw [hseq]; rfl)
  · next scan hseq =>
    have hv : s.storeValid = true := h.sequencer.committed (by rw [hseq]; rfl)
    refine inv_uartStep h (by rw [State.busy, hseq]; rfl) hv scan fun hw => unstopped_of_iterating h ?_ hv
    simpa [hseq, iterating] using hw
  · exact inv_congr (inv_completeDecode h)
  all_goals exact h

/-! ## Every operation -/

/-- Where an outcome goes on, the invariant holds. -/
def KeepsInv (o : Host.Outcome State Fault Refusal) : Prop := ∀ t, o = .next t → Inv t

theorem keepsInv_next {t : State} (h : Inv t) : KeepsInv (.next t) := by
  rintro _ ⟨⟩
  exact h

theorem keepsInv_commandStep {s : State} (h : Inv s) (hr : s.inReset = false) (c : Command) {run : State → State}
    (hrun : Inv (run s)) : KeepsInv (commandStep c run s) := by
  obtain ⟨-, e⟩ | ⟨-, e⟩ := commandStep_cases c run s <;> rw [e]
  · exact keepsInv_next (inv_writeCommand h hr c)
  · exact keepsInv_next hrun

theorem inv_busyLocked {s s' : State} (h : Inv s) (h' : s.busy = false → Inv s') : Inv (busyLocked s s') := by
  obtain ⟨-, e⟩ | ⟨hb, e⟩ := busyLocked_cases s s' <;> rw [e]
  · exact inv_congr h
  · exact h' hb

theorem inv_storeLocked {s s' : State} (h : Inv s) (h' : s.busy = false → s.storeValid = false → Inv s') :
    Inv (storeLocked s s') := by
  obtain ⟨-, e⟩ | ⟨hb, hv, e⟩ := storeLocked_cases s s' <;> rw [e]
  · exact inv_congr h
  · exact h' hb hv

/-- ST_ABSLEN belongs to the store only once it is committed (R35). -/
theorem inv_stAbslen {s : State} (h : Inv s) (hb : s.busy = false) (hv : s.storeValid = false) (w : Word) :
    Inv { s with absLen := w } :=
  inv_of_load_write h hb hv h.memory { h.fields with }
    ⟨h.load.fresh, fun e => { h.load.raw e with }, h.load.committed⟩

/-- A cursor written to a committed store lies inside it (R41). -/
theorem cursorValue_le {s : State} (hv : s.storeValid = true) (w : Word) : (s.cursorValue w).toNat ≤ s.abs - 1 := by
  rw [State.cursorValue, if_pos hv, toNat_clampCursor]
  exact min_le_right _ _

theorem inv_cursorA {s : State} (h : Inv s) (hb : s.busy = false) (w : Word) :
    Inv { s with cursorA := s.cursorValue w } where
  memory := h.memory
  fields := { h.fields with }
  load := ⟨h.load.fresh, fun e => { h.load.raw e with }, h.load.committed⟩
  store hv := { h.store hv with cursorA := cursorValue_le hv w }
  sequencer := sequencerInv_of_idle_write h.sequencer hb rfl

theorem inv_cursorB {s : State} (h : Inv s) (hb : s.busy = false) (w : Word) :
    Inv { s with cursorB := s.cursorValue w } where
  memory := h.memory
  fields := { h.fields with }
  load := ⟨h.load.fresh, fun e => { h.load.raw e with }, h.load.committed⟩
  store hv := { h.store hv with cursorB := cursorValue_le hv w }
  sequencer := sequencerInv_of_idle_write h.sequencer hb rfl

theorem inv_stCfg {s : State} (h : Inv s) (hb : s.busy = false) (w : Word) :
    Inv { s with channels := channelsOf w, trigValid := w.getLsbD 8, rateValid := w.getLsbD 9 } := by
  refine inv_of_operand_write h hb { h.fields with channels := ?_ }
  show 1 ≤ (channelsOf w).toNat ∧ (channelsOf w).toNat ≤ 32
  rw [toNat_channelsOf]
  split <;> omega

theorem inv_spiMode {s : State} (h : Inv s) (hb : s.busy = false) (w : Word) :
    Inv { s with spiMode := .ofWord w } := by
  refine inv_of_operand_write h hb { h.fields with spiBits := ?_ }
  show 4 ≤ (SpiMode.ofWord w).bits.toNat ∧ (SpiMode.ofWord w).bits.toNat ≤ 16
  rw [SpiMode.toNat_ofWord_bits]
  omega

theorem inv_uartCfg {s : State} (h : Inv s) (hb : s.busy = false) (w : Word) :
    Inv { s with uartCfg := s.uartCfg.write w } := by
  refine inv_of_operand_write h hb { h.fields with dataBits := ?_ }
  show 5 ≤ (s.uartCfg.write w).dataBits.toNat ∧ (s.uartCfg.write w).dataBits.toNat ≤ 9
  rw [UartCfg.toNat_write_dataBits]
  omega

/-- The W1C write leaves DONE 0 where a command runs (R25). -/
theorem inv_statusW1c {s : State} (h : Inv s) (b c w e : Bool) :
    Inv { s with done := w1c s.done b, cmdOvr := c, wrIgn := w, busErr := e } := by
  refine inv_of_sameStore h h.memory sameStore_of_mem_eq (fieldInv_congr h.fields rfl)
    (sequencerInv_congr h.sequencer rfl fun hb => ?_)
  obtain ⟨hd, herr⟩ := h.sequencer.running hb
  exact ⟨by simp [w1c, hd], herr⟩

/-- A cancel request is taken only while a decode runs (R26). -/
theorem inv_ctrl {s : State} (h : Inv s) (en b : Bool) :
    Inv { s with irqEn := en, cancelReq := s.cancelReq || (b && s.seq.isDecode) } := by
  refine inv_of_sameStore h h.memory sameStore_of_mem_eq (fieldInv_congr h.fields rfl)
    { h.sequencer with request := fun hreq => ?_ }
  obtain hold | hnew := Bool.or_eq_true_iff.1 hreq
  · exact h.sequencer.request hold
  · exact (Bool.and_eq_true_iff.1 hnew).2

/-- Every operation keeps the invariant, in either agent's turn, while reset is not asserted. -/
theorem keepsInv_exec {s : State} (h : Inv s) (hr : s.inReset = false) (i : Instr) : KeepsInv (exec i s) := by
  cases i with
  | nop => exact keepsInv_commandStep h hr .nop (inv_complete h _)
  | illegalCmd opc rsvd => exact keepsInv_commandStep h hr (.illegal opc rsvd) (inv_complete h _)
  | storeClear =>
    exact keepsInv_commandStep h hr .storeClear (run := fun u => u.clearStore.complete .ok) (inv_storeClear h)
  | storeCommit => exact keepsInv_commandStep h hr .storeCommit (inv_tryCommit h)
  | queryIndex =>
    refine keepsInv_commandStep h hr .queryIndex (inv_completeWith h fun u hu => ?_)
    obtain ⟨_, rfl⟩ := queryIndex_ok hu
    exact inv_complete (inv_congr h) _
  | queryValue =>
    refine keepsInv_commandStep h hr .queryValue (inv_completeWith h fun u hu => ?_)
    obtain ⟨_, _, rfl⟩ := queryValue_ok hu
    exact inv_complete (inv_congr h) _
  | estimateBaud =>
    refine keepsInv_commandStep h hr .estimateBaud (inv_completeWith h fun u hu => ?_)
    obtain ⟨_, _, _, rfl⟩ := estimateBaud_ok hu
    exact inv_complete (inv_congr h) _
  | decodeSpi => exact keepsInv_commandStep h hr .decodeSpi (inv_runSpi h)
  | decodeUart => exact keepsInv_commandStep h hr .decodeUart (inv_runUart h)
  | statusW1c w => exact keepsInv_next (inv_statusW1c h _ _ _ _)
  | ctrlWr w => exact keepsInv_next (inv_ctrl h _ _)
  | pushTs w => exact keepsInv_next (inv_storeLocked h fun hb hv => inv_push h hb hv w)
  | rawSample w => exact keepsInv_next (inv_storeLocked h fun hb hv => inv_pushRaw h hb hv w)
  | stAbslenWr w => exact keepsInv_next (inv_storeLocked h fun hb hv => inv_stAbslen h hb hv w)
  | stCfgWr w => exact keepsInv_next (inv_storeLocked h fun hb _ => inv_stCfg h hb w)
  | stTriggerWr | stRateWr | stEnmaskWr | pushValueWr =>
    exact keepsInv_next (inv_storeLocked h fun hb _ => inv_of_operand_write h hb { h.fields with })
  | cursorAWr w => exact keepsInv_next (inv_busyLocked h fun hb => inv_cursorA h hb w)
  | cursorBWr w => exact keepsInv_next (inv_busyLocked h fun hb => inv_cursorB h hb w)
  | spiModeWr w => exact keepsInv_next (inv_busyLocked h fun hb => inv_spiMode h hb w)
  | uartCfgWr w => exact keepsInv_next (inv_busyLocked h fun hb => inv_uartCfg h hb w)
  | arg0Wr | cursorCtlWr | spiChWr | uartLines0Wr | uartLines1Wr =>
    exact keepsInv_next (inv_busyLocked h fun hb => inv_of_operand_write h hb { h.fields with })

/-! ## Every turn (R79, R260) -/

theorem inv_busRead {s : State} (h : Inv s) (size : AccessSize) (a : Word) : Inv (s.busRead size a) := by
  obtain ⟨_, _, _, e⟩ := busRead_shape size a s
  rw [e]
  exact inv_congr h

theorem inv_pollDone {s : State} (h : Inv s) : Inv s.pollDone := by
  unfold State.pollDone
  dsimp only
  split_ifs
  · exact inv_busRead h _ _
  · exact inv_congr (inv_busRead h .word (BitVec.ofNat 32 0x014))

theorem inv_dropWrite {s : State} (h : Inv s) (r : WriteReject) : Inv (s.dropWrite r) := by
  obtain ⟨-, e⟩ | ⟨-, e⟩ := dropWrite_cases r s <;> rw [e]
  · exact h
  · exact inv_congr h

theorem publishProgress_le (s : State) : s.publishProgress.progress.toNat ≤ 100 := by
  rw [State.publishProgress_progress, BitVec.toNat_ofNat]
  omega

theorem inv_hardwarePublishes {s : State} (h : Inv s) : Inv s.hardwarePublishes := by
  obtain ⟨-, e⟩ | ⟨-, e⟩ := hardwarePublishes_cases s <;> rw [e]
  · exact inv_of_sameStore h h.memory sameStore_of_mem_eq { h.fields with progress := publishProgress_le s }
      (sequencerInv_congr h.sequencer rfl h.sequencer.running)
  · exact h

/-- Either reset event leaves a block at its reset values, with the memory it had (R260, R261). -/
theorem inv_resetEvent {s : State} (h : Inv s) (e : ResetEvent) : Inv (s.resetEvent e) := by
  have channels : 1 ≤ (32#6).toNat ∧ (32#6).toNat ≤ 32 := by decide
  have spiBits : 4 ≤ SpiMode.reset.bits.toNat ∧ SpiMode.reset.bits.toNat ≤ 16 := by decide
  have dataBits : 5 ≤ UartCfg.reset.dataBits.toNat ∧ UartCfg.reset.dataBits.toNat ≤ 9 := by decide
  have hf : FieldInv s.resetBlock :=
    ⟨h.fields.nMax, h.fields.eMax, Nat.zero_le _, Nat.zero_le _, Nat.zero_le _, channels, spiBits, dataBits⟩
  cases e
  all_goals
    exact ⟨h.memory, { hf with }, ⟨fun _ => ⟨rfl, rfl⟩, nofun, nofun⟩, nofun, sequencerInv_of_idle rfl rfl nofun⟩

theorem keepsInv_hostTurn {s : State} (h : Inv s) (op : HostOp) : KeepsInv (hostTurn op s) := by
  unfold hostTurn
  split_ifs with hr
  · cases op <;> exact keepsInv_next (inv_congr h)
  · cases op with
    | write b =>
      dsimp only
      unfold deliver
      split
      · exact keepsInv_exec h (by simpa using hr) _
      · exact keepsInv_next (inv_dropWrite h _)
    | read size a => exact keepsInv_next (inv_busRead h size a)
    | waitDone => exact keepsInv_next (inv_pollDone h)

theorem keepsInv_sequencerTurn {s : State} (h : Inv s) : KeepsInv (sequencerTurn s) := by
  unfold sequencerTurn
  split_ifs with hr
  · exact keepsInv_next h
  · split
    · exact keepsInv_next h
    · exact keepsInv_exec (s := { s with turn := .sequencer }) (inv_congr h) (by simpa using hr) _

theorem keepsInv_agentsTurn {s : State} (h : Inv s) : KeepsInv (agentsTurn s) := by
  have hp := inv_hardwarePublishes h
  unfold agentsTurn
  split
  · exact keepsInv_sequencerTurn hp
  · split_ifs
    · exact keepsInv_hostTurn (inv_congr hp) _
    · exact keepsInv_sequencerTurn (inv_congr hp)

/-- Every step keeps the invariant, whatever agent takes it. -/
theorem keepsInv_step {s : State} (h : Inv s) : KeepsInv (step s) := by
  unfold step anyTurn
  split
  · exact keepsInv_agentsTurn h
  · split_ifs
    · exact keepsInv_next (inv_resetEvent (inv_congr h) _)
    · exact keepsInv_agentsTurn (inv_congr h)

end Sys2Proof.Machine
end

section
/-! CERTIFICATE. The invariant of the whole machine (spec/40_store.md R111, spec/44_sequencer.md R217 to R222,
spec/60_exceptions.md R236). -/

namespace Sys2Proof.Certificates

open Sys2Proof.Machine

/-- Settles O9: the invariant operation by operation, and then turn by turn (`keepsInv_step`). -/
theorem invariantKeptByEveryStep : Obligations.InvariantKeptByEveryStep := fun _ t h e => keepsInv_step h t e

end Sys2Proof.Certificates
end

section
/-! SUPPORT. The text of a capture file (spec/40_store.md R134 to R138): numbers, metadata lines and data lines as the
serialiser writes them are read back by the loader, and so is the whole file of a committed store. -/

namespace Sys2Proof.Machine

open Sys2Proof.Safety

/-! ## Numbers -/

theorem readDigits_append (base : Nat) (digit : Char → Option Nat) (acc : Nat) (xs ys : List Char) :
    readDigits base digit acc (xs ++ ys) = (readDigits base digit acc xs).bind (readDigits base digit · ys) := by
  induction xs generalizing acc with
  | nil => rfl
  | cons c xs ih =>
    rw [List.cons_append, readDigits, readDigits]
    cases digit c with
    | none => rfl
    | some d => exact ih _

theorem decimalDigit_digitChar {d : Nat} (h : d < 10) : decimalDigit (digitChar d) = some d := by
  have all : ∀ d < 10, decimalDigit (digitChar d) = some d := by decide
  exact all d h

theorem hexDigit_digitChar {d : Nat} (h : d < 16) : hexDigit (digitChar d) = some d := by
  have all : ∀ d < 16, hexDigit (digitChar d) = some d := by decide
  exact all d h

theorem readDigits_decimalDigits {fuel n : Nat} (h : n < 10 ^ fuel) :
    readDigits 10 decimalDigit 0 (decimalDigits fuel n) = some n := by
  induction fuel generalizing n with
  | zero =>
    obtain rfl : n = 0 := by simpa using h
    rfl
  | succ fuel ih =>
    rw [decimalDigits]
    split
    · next hlt => simp [readDigits, decimalDigit_digitChar hlt]
    · have hdiv : n / 10 < 10 ^ fuel := Nat.div_lt_of_lt_mul (by rwa [Nat.pow_succ'] at h)
      have hmod : n / 10 * 10 + n % 10 = n := Nat.div_add_mod' n 10
      simp [readDigits_append, ih hdiv, readDigits, decimalDigit_digitChar (Nat.mod_lt n (by decide : 0 < 10)), hmod]

theorem decimalText_ne_nil (n : Nat) : decimalText n ≠ [] := by
  unfold decimalText decimalDigits
  split <;> simp

/-- A 32-bit number reads back from its decimal text. -/
theorem readDecimal_decimalText {n : Nat} (h : n < 2 ^ 32) : readDecimal (decimalText n) = some n := by
  rw [readDecimal, if_neg (by simpa using decimalText_ne_nil n)]
  exact readDigits_decimalDigits (h.trans (by decide))

theorem readSigned_of_readDecimal {cs : List Char} {n : Nat} (h : readDecimal cs = some n) :
    readSigned cs = some (n : Int) := by
  unfold readSigned
  split
  · cases h
  · rw [h]; rfl

theorem readSigned_decimalText {n : Nat} (h : n < 2 ^ 32) : readSigned (decimalText n) = some (n : Int) :=
  readSigned_of_readDecimal (readDecimal_decimalText h)

/-- A word reads back from its eight hex digits. -/
theorem readDigits_hexText (w : Word) : readDigits 16 hexDigit 0 (hexText w) = some w.toNat := by
  have digit (k : Nat) : hexDigit (digitChar (w.extractLsb' k 4).toNat) = some (w.toNat / 2 ^ k % 16) := by
    rw [hexDigit_digitChar (w.extractLsb' k 4).isLt, toNat_field]
    rfl
  have hw := w.isLt
  have htext : hexText w = [28, 24, 20, 16, 12, 8, 4, 0].map (fun k => digitChar (w.extractLsb' k 4).toNat) := rfl
  rw [htext]
  simp only [List.map_cons, List.map_nil, readDigits, digit, Option.some.injEq]
  omega

theorem length_hexText (w : Word) : (hexText w).length = 8 := by simp [hexText]

theorem fitsWord_toNat (w : Word) : fitsWord w.toNat = some w := by
  rw [fitsWord, if_pos w.isLt, BitVec.ofNat_toNat, BitVec.setWidth_eq]

/-! ## Metadata lines (R134) -/

/-- A key without a colon ends at the colon of its line. -/
theorem splitKey_append {k : List Char} (hk : ':' ∉ k) (v : List Char) :
    splitKey (k ++ ':' :: ' ' :: v) = some (k, v) := by
  induction k with
  | nil => rfl
  | cons c k ih =>
    obtain ⟨hc, hk⟩ := not_or.1 (mt List.mem_cons.2 hk)
    have hc' : c ≠ ':' := Ne.symm hc
    rw [List.cons_append, splitKey.eq_3 _ _ (by simp [hc']), if_neg hc', ih hk]
    rfl

/-- The loader reads the line of a key as the value that the serialiser put there. -/
theorem readLine_metadataLine (h : FileHeader) (k : HeaderKey) (v : List Char) :
    h.readLine (metadataLine k v) = h.set k v := by
  have hsplit : splitKey (k.text ++ ':' :: ' ' :: v) = some (k.text, v) := splitKey_append (by cases k <;> decide) v
  have hfind : HeaderKey.all.find? (fun key => key.text == k.text) = some k := by cases k <;> decide
  simp only [metadataLine, FileHeader.readLine, hsplit, hfind]

section
variable (h : FileHeader) {v : List Char} {n : Nat} {i : Int}

theorem set_size (hv : readDecimal v = some n) : h.set .size v = .ok { h with size := some n } := by
  simp [FileHeader.set, hv, orError, Except.map]

theorem set_rate (hv : readSigned v = some i) : h.set .rate v = .ok { h with rate := some i } := by
  simp [FileHeader.set, hv, orError, Except.map]

theorem set_channels (hv : readDecimal v = some n) : h.set .channels v = .ok { h with channels := some n } := by
  simp [FileHeader.set, hv, orError, Except.map]

theorem set_enabledChannels (hv : readSigned v = some i) :
    h.set .enabledChannels v = .ok { h with enabledChannels := some i } := by
  simp [FileHeader.set, hv, orError, Except.map]

theorem set_triggerPosition (hv : readSigned v = some i) :
    h.set .triggerPosition v = .ok { h with triggerPosition := some i } := by
  simp [FileHeader.set, hv, orError, Except.map]

theorem set_compressed_true : h.set .compressed ['t', 'r', 'u', 'e'] = .ok { h with compressed := some true } := rfl

theorem set_absoluteLength (hv : readDecimal v = some n) :
    h.set .absoluteLength v = .ok { h with absoluteLength := some n } := by
  simp [FileHeader.set, hv, orError, Except.map]

end

theorem forall_mem_metadataLineIf (present : Bool) (k : HeaderKey) (v : List Char) :
    ∀ l ∈ metadataLineIf present k v, isMetadata l = true := by
  cases present <;> simp [metadataLineIf, metadataLine, isMetadata]

/-! ## Data lines (R135) -/

/-- Entry i as the two words that a load pushes. -/
def State.entry (s : State) (i : Nat) : Word × Word := (s.v i, s.mem.readWord (transAddr i + 4))

/-- The loader reads the line of an entry as that entry. -/
theorem readCompressedLine_dataLine (s : State) (i : Nat) : readCompressedLine (s.dataLine i) = some (s.entry i) := by
  have htake : (s.dataLine i).take 8 = hexText (s.v i) := by
    rw [State.dataLine, List.take_left' (length_hexText _)]
  have hdrop : (s.dataLine i).drop 8 = '@' :: decimalText (s.t i) := by
    rw [State.dataLine, List.drop_left' (length_hexText _)]
  have htime : (readDecimal (decimalText (s.t i))).bind fitsWord = some (s.mem.readWord (transAddr i + 4)) := by
    rw [State.t, readDecimal_decimalText (BitVec.isLt _)]
    exact fitsWord_toNat _
  simp only [readCompressedLine, htake, hdrop, readDigits_hexText, length_hexText, htime, if_true]
  rw [BitVec.ofNat_toNat, BitVec.setWidth_eq, State.entry]

/-- A data line starts with a digit and not with a semicolon. -/
theorem isMetadata_dataLine (s : State) (i : Nat) : isMetadata (s.dataLine i) = false := by
  have all : ∀ d < 16, digitChar d ≠ ';' := by decide
  have hne := all _ ((s.v i).extractLsb' 28 4).isLt
  have hhead : (s.dataLine i).head? = some (digitChar ((s.v i).extractLsb' 28 4).toNat) := rfl
  rw [isMetadata, hhead, beq_eq_false_iff_ne]
  exact fun e => hne (Option.some.inj e)

theorem readAll_map {α β : Type} {f : TextLine → Option α} {line : β → TextLine} {g : β → α}
    (h : ∀ x, f (line x) = some (g x)) (xs : List β) : readAll f (xs.map line) = some (xs.map g) := by
  induction xs with
  | nil => rfl
  | cons x xs ih => simp [readAll, h, ih]

/-! ## The whole file (R138) -/

/-- The metadata lines of the serialised store. -/
def State.headerLines (s : State) : List TextLine :=
  [metadataLine .size (decimalText s.nTrans.toNat),
    metadataLine .rate (if s.rateValid then decimalText s.rate.toNat else ['-', '1']),
    metadataLine .channels (decimalText s.channels.toNat)] ++
    metadataLineIf (s.enMask != 0#32) .enabledChannels (decimalText s.enMask.toNat) ++
    metadataLineIf s.trigValid .triggerPosition (decimalText s.trigger.toNat) ++
    [metadataLine .compressed ['t', 'r', 'u', 'e'], metadataLine .absoluteLength (decimalText s.abs)]

/-- The data lines of the serialised store. -/
def State.dataLines (s : State) : List TextLine := (List.range s.nTrans.toNat).map s.dataLine

theorem serialise_eq (s : State) : s.serialise = s.headerLines ++ s.dataLines := rfl

/-- The header that the metadata lines of the serialised store give. -/
def State.fileHeader (s : State) : FileHeader :=
  { FileHeader.empty with
    size := some s.nTrans.toNat
    rate := some (if s.rateValid then s.rate.toNat else -1)
    channels := some s.channels.toNat
    enabledChannels := if s.enMask != 0#32 then some s.enMask.toNat else none
    triggerPosition := if s.trigValid then some s.trigger.toNat else none
    compressed := some true
    absoluteLength := some s.abs }

theorem forall_mem_headerLines (s : State) : ∀ l ∈ s.headerLines, isMetadata l = true := by
  simp only [State.headerLines, List.forall_mem_append, List.forall_mem_cons]
  exact ⟨⟨⟨⟨rfl, rfl, rfl, nofun⟩, forall_mem_metadataLineIf _ _ _⟩, forall_mem_metadataLineIf _ _ _⟩, rfl, rfl, nofun⟩

theorem forall_mem_dataLines (s : State) : ∀ l ∈ s.dataLines, isMetadata l = false := by
  simp [State.dataLines, isMetadata_dataLine]

/-- The header ends at the first data line. -/
theorem split_serialise (s : State) :
    s.serialise.takeWhile isMetadata = s.headerLines ∧ s.serialise.dropWhile isMetadata = s.dataLines := by
  have stop : s.dataLines.takeWhile isMetadata = [] ∧ s.dataLines.dropWhile isMetadata = s.dataLines := by
    have hdata := forall_mem_dataLines s
    cases hl : s.dataLines with
    | nil => exact ⟨rfl, rfl⟩
    | cons l ls =>
      have hfirst : isMetadata l = false := hdata l (by simp [hl])
      simp [hfirst]
  rw [serialise_eq, List.takeWhile_append_of_pos (forall_mem_headerLines s),
    List.dropWhile_append_of_pos (forall_mem_headerLines s), stop.1, stop.2, List.append_nil]
  exact ⟨rfl, rfl⟩

theorem toNat_lt_of_width_le {n : Nat} (x : BitVec n) (h : n ≤ 32) : x.toNat < 2 ^ 32 :=
  x.isLt.trans_le (Nat.pow_le_pow_right (by decide) h)

theorem readLines_headerLines (s : State) : FileHeader.empty.readLines s.headerLines = .ok s.fileHeader := by
  have rateText : readSigned (if s.rateValid then decimalText s.rate.toNat else ['-', '1']) =
      some (if s.rateValid then (s.rate.toNat : Int) else -1) := by
    cases s.rateValid with
    | true => exact readSigned_decimalText s.rate.isLt
    | false => rfl
  have size h := set_size h (readDecimal_decimalText s.nTrans.isLt)
  have rate h := set_rate h rateText
  have channels h := set_channels h (readDecimal_decimalText (toNat_lt_of_width_le s.channels (by decide)))
  have mask h := set_enabledChannels h (readSigned_decimalText s.enMask.isLt)
  have trigger h := set_triggerPosition h (readSigned_decimalText s.trigger.isLt)
  have length h := set_absoluteLength h (readDecimal_decimalText s.absLen.isLt)
  cases hmask : s.enMask != 0#32 <;> cases htrig : s.trigValid <;>
    simp only [State.headerLines, metadataLineIf, if_true, if_false, Bool.false_eq_true, List.nil_append,
      List.cons_append, List.append_nil, FileHeader.readLines, readLine_metadataLine, size, rate, channels, mask,
      trigger, set_compressed_true, State.abs, length, FileHeader.empty, State.fileHeader, hmask, htrig]

/-! ## The loader on it (R137) -/

/-- ST_RATE as the load writes it: only where it is available (R134). -/
def State.rateWrite (s : State) : Option Word := if s.rateValid then some s.rate else none

/-- ST_TRIGGER as the load writes it: only where it is available (R134). -/
def State.triggerWrite (s : State) : Option Word := if s.trigValid then some s.trigger else none

/-- The script that loads the serialised store back. -/
def State.loadScript (s : State) : Script :=
  Script.run .storeClear ++
    s.fileHeader.writes s.channels.toNat s.rateWrite s.triggerWrite (some s.absLen) ++
    ((List.range s.nTrans.toNat).map s.entry).flatMap (fun p => Script.push p.1 p.2) ++ Script.run .storeCommit ++
    Script.rd .errCode

theorem orWord_toNat (w : Word) : orWord (some w.toNat) = .ok (some w) := by
  simp only [orWord, fitsWord_toNat]
  rfl

theorem available_natCast (n : Nat) : available (some (n : Int)) = some n := by
  rw [available, if_neg (Int.not_lt.2 (Int.natCast_nonneg n)), Int.toNat_natCast]

theorem orWord_rate (s : State) : orWord (available s.fileHeader.rate) = .ok s.rateWrite := by
  cases hr : s.rateValid with
  | true => simpa [State.fileHeader, State.rateWrite, hr, available_natCast] using orWord_toNat s.rate
  | false => simp [State.fileHeader, State.rateWrite, hr, available, orWord]

theorem orWord_trigger (s : State) : orWord (available s.fileHeader.triggerPosition) = .ok s.triggerWrite := by
  cases ht : s.trigValid with
  | true => simpa [State.fileHeader, State.triggerWrite, ht, available_natCast] using orWord_toNat s.trigger
  | false => simp [State.fileHeader, State.triggerWrite, ht, available, orWord]

theorem dataWrites_dataLines (s : State) :
    dataWrites true s.dataLines =
      .ok (((List.range s.nTrans.toNat).map s.entry).flatMap (fun p => Script.push p.1 p.2)) := by
  rw [dataWrites, if_pos rfl, State.dataLines, readAll_map (readCompressedLine_dataLine s)]
  rfl

/-- A store that fits the capacity is serialised to a file without a format error. -/
theorem loadFile_serialise {s : State} {n : Nat} (hpos : 1 ≤ s.nTrans.toNat) (hfit : s.nTrans.toNat ≤ n) :
    loadFile n s.serialise = .ok s.loadScript := by
  obtain ⟨htake, hdrop⟩ := split_serialise s
  have hsize : ¬(s.nTrans.toNat < 1 ∨ sizeBound n true < s.nTrans.toNat) := by
    rw [sizeBound, if_pos rfl]
    omega
  have hcount : s.dataLines.length = s.nTrans.toNat := by simp [State.dataLines]
  have hrate : orWord (available (some (if s.rateValid then (s.rate.toNat : Int) else -1))) = .ok s.rateWrite :=
    orWord_rate s
  have htrigger : orWord (available (if s.trigValid then some (s.trigger.toNat : Int) else none)) =
      .ok s.triggerWrite := orWord_trigger s
  have hlength : orWord (some s.abs) = .ok (some s.absLen) := orWord_toNat s.absLen
  simp only [loadFile, bind, Except.bind, htake, hdrop, readLines_headerLines]
  simp only [State.fileHeader, orError, Except.map, beq_self_eq_true, if_true, hsize, if_false, dataWrites_dataLines,
    hcount, ne_eq, not_true, hrate, htrigger, hlength]
  rfl

/-- Every load ends with STORE_COMMIT and the read of ERRCODE: each way through the loader is an error or has both at
its end. -/
theorem loadFile_ends_with_commit {n : Nat} {lines : List TextLine} {script : Script}
    (h : loadFile n lines = .ok script) :
    ∃ front, script = front ++ Script.run .storeCommit ++ Script.rd .errCode := by
  unfold loadFile at h
  simp only [bind, Except.bind] at h
  repeat' split at h
  all_goals cases h
  all_goals exact ⟨_, rfl⟩

/-! ## The report (R137) -/

theorem toWord_eq_zero_iff (e : ErrCode) : e.toWord = 0#32 ↔ e = .ok := by cases e <;> decide

theorem loadReport_read_errCode (s : State) :
    (s.errCode = .ok → (s.busRead .word 0x01C#32).loadReport = .ok ()) ∧
      (s.errCode ≠ .ok → (s.busRead .word 0x01C#32).loadReport = .error (.commitFailed s.errCode.toWord)) := by
  rw [busRead_of_register rfl]
  exact ⟨fun h => if_pos ((toWord_eq_zero_iff _).2 h), fun h => if_neg (mt (toWord_eq_zero_iff _).1 h)⟩

end Sys2Proof.Machine
end

section
/-! SUPPORT. The run of a host script (spec/30_encoding.md R104, R105): a script on a block that nobody resets and that
scans no decode, line by line, and the load script of a committed store as a whole (spec/40_store.md R138). -/

namespace Sys2Proof.Machine

open Sys2Proof.Safety Sys2Proof.Statement

/-! ## Runs -/

theorem reaches_zero (s : State) : Reaches 0 s s := rfl

/-- A run is a step and the run after it. -/
theorem reaches_succ {k : Nat} {s t u : State} (hs : step s = .next t) (h : Reaches k t u) : Reaches (k + 1) s u := by
  have hstep : Sys2Proof.core.step s = .next t := hs
  simp only [Reaches, Host.Core.run, hstep]
  exact h

theorem reaches_add {j k : Nat} {s t u : State} (hj : Reaches j s t) (hk : Reaches k t u) : Reaches (j + k) s u := by
  induction j generalizing s with
  | zero =>
    obtain rfl : s = t := Host.Outcome.next.inj hj
    rwa [Nat.zero_add]
  | succ j ih =>
    rw [Nat.succ_add]
    cases hs : step s with
    | next s' =>
      have hstep : Sys2Proof.core.step s = .next s' := hs
      simp only [Reaches, Host.Core.run, hstep] at hj
      exact reaches_succ hs (ih hj)
    | fault r => cases r
    | refused r =>
      have hstep : Sys2Proof.core.step s = .refused r := hs
      simp only [Reaches, Host.Core.run, hstep] at hj
      cases hj

/-- `s` with another plan of the host. -/
def State.withHost (plan : Script) (s : State) : State := { s with host := plan }

/-- `s` in an agent's turn. -/
def State.withTurn (a : Agent) (s : State) : State := { s with turn := a }

theorem withTurn_eq_self {s : State} {a : Agent} (h : s.turn = a) : s.withTurn a = s := by
  subst h; rfl

/-- The host's script, whatever the host does after it, leads from `s` to `t`; the plans in `s` and `t` themselves do
not count. -/
def RunsTo (script : Script) (s t : State) : Prop :=
  ∀ rest, ∃ k, Reaches k (s.withHost (script ++ rest)) (t.withHost rest)

theorem runsTo_nil (s : State) : RunsTo [] s s := fun _ => ⟨0, reaches_zero _⟩

theorem RunsTo.append {a b : Script} {s t u : State} (ha : RunsTo a s t) (hb : RunsTo b t u) : RunsTo (a ++ b) s u := by
  intro rest
  obtain ⟨j, hj⟩ := ha (b ++ rest)
  obtain ⟨k, hk⟩ := hb rest
  exact ⟨j + k, reaches_add (by rwa [List.append_assoc]) hk⟩

/-! ## One operation of the host -/

/-- No reset comes and no decode scans, so that no step publishes PROGRESS. -/
structure Undisturbed (s : State) : Prop extends NoReset s where
  unscanned : s.seq.scanning = false

theorem hardwarePublishes_of_unscanned {s : State} (h : s.seq.scanning = false) : s.hardwarePublishes = s := by
  simp [State.hardwarePublishes, h]

theorem undisturbed_of_read {s : State} (h : Undisturbed s) (w : Word) (a : Agent) :
    Undisturbed ((s.readReturns w).withTurn a) := { h with }

theorem withHost_withTurn (s : State) (a : Agent) (plan : Script) :
    (s.withTurn a).withHost plan = (s.withHost plan).withTurn a := rfl

/-- STATUS depends neither on the latch of the last read nor on the turn. -/
theorem statusWord_of_read (s : State) (w : Word) (a : Agent) :
    ((s.readReturns w).withTurn a).statusWord = s.statusWord := rfl

theorem read_of_read (s : State) (w w' : Word) (a b : Agent) :
    (((s.readReturns w).withTurn a).readReturns w').withTurn b = (s.readReturns w').withTurn b := rfl

theorem undisturbed_withHost {s : State} (h : Undisturbed s) (plan : Script) :
    Undisturbed (s.withHost plan) := { h with }

/-- A due operation of the host is its turn. -/
theorem step_now {s : State} (h : Undisturbed s) (op : HostOp) (rest : Script) :
    step (s.withHost (op.now :: rest)) = hostTurn op ((s.withHost rest).withTurn .host) := by
  have hu := undisturbed_withHost h (op.now :: rest)
  rw [step_of_due_host hu.platform rfl, hardwarePublishes_of_unscanned hu.unscanned]
  rfl

/-- Before an operation with a delay the sequencer has its turn. -/
theorem step_of_delayed_host {s : State} (h : Undisturbed s) {op : HostOp} {rest : List HostSlot}
    (hh : s.host = { delay := 1, op := op } :: rest) : step s = sequencerTurn { s with host := op.now :: rest } := by
  simp only [step, anyTurn, h.platform, agentsTurn, hh, hardwarePublishes_of_unscanned h.unscanned]
  rfl

theorem step_later {s : State} (h : Undisturbed s) (op : HostOp) (rest : Script) :
    step (s.withHost ({ delay := 1, op := op } :: rest)) = sequencerTurn (s.withHost (op.now :: rest)) :=
  step_of_delayed_host (undisturbed_withHost h _) rfl

/-- A write that is an operation of the block is one step. -/
theorem runsTo_write {s t : State} {b : BusWrite} {i : Instr} (h : Undisturbed s) (hb : decodeWrite b = .operation i)
    (hi : ∀ rest, exec i ((s.withHost rest).withTurn .host) = .next (t.withHost rest)) :
    RunsTo [(HostOp.write b).now] s t := by
  intro rest
  refine ⟨1, reaches_succ ?_ (reaches_zero _)⟩
  rw [List.singleton_append, step_now h,
    hostTurn_write (s := (s.withHost rest).withTurn .host) h.outOfReset, deliver_of_operation hb, hi]

theorem hostTurn_read {s : State} (h : s.inReset = false) (size : AccessSize) (a : Word) :
    hostTurn (.read size a) s = .next (s.busRead size a) := by
  simp [hostTurn, h]

/-- The read of ERRCODE is one step. -/
theorem runsTo_rd_errCode {s : State} (h : Undisturbed s) :
    RunsTo (Script.rd .errCode) s ((s.withTurn .host).readReturns s.errCode.toWord) := by
  intro rest
  refine ⟨1, reaches_succ ?_ (reaches_zero _)⟩
  rw [Script.rd, Script.rdOffset, List.singleton_append, step_now h,
    hostTurn_read (s := (s.withHost rest).withTurn .host) h.outOfReset, busRead_of_register rfl]
  rfl

/-! ## Register writes of a load (R112) -/

/-- An idle block in the host's turn, with no store committed. -/
structure Loading (s : State) : Prop extends NoReset s where
  idle : s.seq = .idle
  notCommitted : s.storeValid = false
  hostTurn : s.turn = .host

theorem undisturbed_of_idle {s : State} (h : NoReset s) (hi : s.seq = .idle) : Undisturbed s :=
  { h with unscanned := by rw [hi]; rfl }

theorem not_busy_of_idle {s : State} (hi : s.seq = .idle) : s.busy = false := by
  rw [State.busy, hi]; rfl

/-- A store-locked register write while a store is loaded. -/
theorem runsTo_wr {s t : State} {r : RegisterName} {w : Word} {i : Instr} (h : Loading s)
    (hi : decodeMmio r.offset w = some i)
    (hw : ∀ rest, exec i (s.withHost rest) = .next (storeLocked (s.withHost rest) (t.withHost rest))) :
    RunsTo (Script.wr r w) s t := by
  refine runsTo_write (undisturbed_of_idle h.toNoReset h.idle) (decodeWrite_of_decodeMmio hi) fun rest => ?_
  have hb : (s.withHost rest).busy = false := not_busy_of_idle h.idle
  have hv : (s.withHost rest).storeValid = false := h.notCommitted
  rw [withTurn_eq_self (s := s.withHost rest) h.hostTurn, hw, storeLocked_of_free hb hv]

/-- A part of a load that does `f` to the block and leaves it loading. -/
def LoadsBy (script : Script) (f : State → State) : Prop := ∀ u, Loading u → Loading (f u) ∧ RunsTo script u (f u)

theorem loadsBy_nil : LoadsBy [] id := fun u h => ⟨h, runsTo_nil u⟩

theorem LoadsBy.append {a b : Script} {f g : State → State} (ha : LoadsBy a f) (hb : LoadsBy b g) :
    LoadsBy (a ++ b) (g ∘ f) := by
  intro u h
  obtain ⟨hf, ra⟩ := ha u h
  obtain ⟨hg, rb⟩ := hb (f u) hf
  exact ⟨hg, ra.append rb⟩

/-- An optional write changes its register only where there is a value. -/
theorem loadsBy_wrSome {r : RegisterName} {put : Word → State → State} {get : State → Word}
    (hput : ∀ u, put (get u) u = u) (h : ∀ w, LoadsBy (Script.wr r w) (put w)) (o : Option Word) :
    LoadsBy (Script.wrSome r o) (fun u => put (o.getD (get u)) u) := by
  cases o with
  | some w => exact h w
  | none =>
    intro u hu
    show Loading (put (get u) u) ∧ RunsTo [] u (put (get u) u)
    rw [hput]
    exact loadsBy_nil u hu

theorem loadsBy_stCfg (w : Word) :
    LoadsBy (Script.wr .stCfg w)
      (fun u => { u with channels := channelsOf w, trigValid := w.getLsbD 8, rateValid := w.getLsbD 9 }) :=
  fun _ h => ⟨{ h with }, runsTo_wr h rfl fun _ => rfl⟩

theorem loadsBy_stRate : ∀ o, LoadsBy (Script.wrSome .stRate o) (fun u => { u with rate := o.getD u.rate }) :=
  loadsBy_wrSome (put := fun w u => { u with rate := w }) (get := State.rate) (fun _ => rfl)
    fun _ _ h => ⟨{ h with }, runsTo_wr h rfl fun _ => rfl⟩

theorem loadsBy_stTrigger :
    ∀ o, LoadsBy (Script.wrSome .stTrigger o) (fun u => { u with trigger := o.getD u.trigger }) :=
  loadsBy_wrSome (put := fun w u => { u with trigger := w }) (get := State.trigger) (fun _ => rfl)
    fun _ _ h => ⟨{ h with }, runsTo_wr h rfl fun _ => rfl⟩

theorem loadsBy_stEnMask : ∀ o, LoadsBy (Script.wrSome .stEnMask o) (fun u => { u with enMask := o.getD u.enMask }) :=
  loadsBy_wrSome (put := fun w u => { u with enMask := w }) (get := State.enMask) (fun _ => rfl)
    fun _ _ h => ⟨{ h with }, runsTo_wr h rfl fun _ => rfl⟩

theorem loadsBy_stAbsLen : ∀ o, LoadsBy (Script.wrSome .stAbsLen o) (fun u => { u with absLen := o.getD u.absLen }) :=
  loadsBy_wrSome (put := fun w u => { u with absLen := w }) (get := State.absLen) (fun _ => rfl)
    fun _ _ h => ⟨{ h with }, runsTo_wr h rfl fun _ => rfl⟩

theorem runsTo_pushTs {s : State} (h : Loading s) (ho : s.loadOvf = false) (hm : s.loadMode ≠ .raw)
    (hn : s.nTrans ≠ s.nMax) (t : Word) :
    RunsTo (Script.wr .pushTs t) s { s.appendTransition s.pushValue t with loadMode := .push } := by
  refine runsTo_wr (i := .pushTs t) h rfl fun rest => ?_
  rw [exec_pushTs, push_of_free (s := s.withHost rest) t ho hm hn]
  rfl

/-- `PUSH v, t` (R105) appends the entry where there is room and no raw load. -/
theorem runsTo_push {s : State} (h : Loading s) (ho : s.loadOvf = false) (hm : s.loadMode ≠ .raw)
    (hn : s.nTrans ≠ s.nMax) (v t : Word) :
    RunsTo (Script.push v t) s { s.appendTransition v t with pushValue := v, loadMode := .push } := by
  have hvalue : RunsTo (Script.wr .pushValue v) s { s with pushValue := v } := runsTo_wr h rfl fun _ => rfl
  exact hvalue.append (runsTo_pushTs (s := { s with pushValue := v }) { h with } ho hm hn t)

/-! ## RUN (R105) -/

/-- The write of a command word in the host's turn (R216). -/
theorem exec_command_of_host {s : State} (h : s.turn = .host) (c : Command) :
    exec c.instr s = .next (s.writeCommand c) := by
  have hstep (run : State → State) : commandStep c run s = .next (s.writeCommand c) := by simp [commandStep, h]
  cases c with
  | storeClear => exact hstep fun u => u.clearStore.complete .ok
  | _ => exact hstep _

theorem sequencerTurn_of_command {s : State} {c : Command} (hr : s.inReset = false) (hc : s.seq.command = some c) :
    sequencerTurn s = exec c.instr (s.withTurn .sequencer) := by
  rw [sequencerTurn, if_neg (by simp [hr]), hc]
  rfl

theorem accept_seq (c : Command) (s : State) : (s.accept c).seq = .pending c := by
  cases c <;> rfl

theorem accept_withHost (c : Command) (s : State) (plan : Script) :
    (s.withHost plan).accept c = (s.accept c).withHost plan := by
  cases c <;> rfl

/-- STATUS.DONE, as WAITDONE reads it. -/
theorem pollDone_eq (s : State) :
    s.pollDone =
      if s.done then { s with readData := s.statusWord }
      else { s with readData := s.statusWord, host := { delay := 1, op := .waitDone } :: s.host } := by
  have hread : s.busRead .word (BitVec.ofNat 32 0x014) = { s with readData := s.statusWord } := busRead_of_register rfl
  have hdone : s.statusWord.getLsbD 1 = s.done := State.statusWord_getLsbD s 1
  simp only [State.pollDone, hread, hdone]

theorem hostTurn_waitDone {s : State} (h : s.inReset = false) : hostTurn .waitDone s = .next s.pollDone := by
  simp [hostTurn, h]

/-- `CMD m` on an idle block is its acceptance. -/
theorem runsTo_cmd {s : State} (h : NoReset s) (hi : s.seq = .idle) {c : Command} (hc : c.instr.wellFormed = true) :
    RunsTo (Script.cmd c) s ((s.withTurn .host).accept c) := by
  refine runsTo_write (undisturbed_of_idle h hi) (Certificates.decodeOfEncodeIsTheOperation _ hc) fun rest => ?_
  have hb : ((s.withHost rest).withTurn .host).busy = false := not_busy_of_idle hi
  rw [exec_command_of_host rfl, State.writeCommand, if_neg (by simp [hb]), ← accept_withHost]
  rfl

section
variable {s : State} (h : Undisturbed s) (rest : Script)
include h

/-- A poll that finds DONE 1 ends the loop. -/
theorem step_poll_of_done (hd : s.done = true) :
    step (s.withHost (HostOp.waitDone.now :: rest)) =
      .next (((s.readReturns s.statusWord).withTurn .host).withHost rest) := by
  have hpoll : State.done ((s.withHost rest).withTurn .host) = true := hd
  rw [step_now h, hostTurn_waitDone (s := (s.withHost rest).withTurn .host) h.outOfReset, pollDone_eq, if_pos hpoll]
  rfl

/-- A poll that finds DONE 0 comes again after a turn of the sequencer. -/
theorem step_poll_of_not_done (hd : s.done = false) :
    step (s.withHost (HostOp.waitDone.now :: rest)) =
      .next (((s.readReturns s.statusWord).withTurn .host).withHost ({ delay := 1, op := .waitDone } :: rest)) := by
  have hpoll : State.done ((s.withHost rest).withTurn .host) = false := hd
  rw [step_now h, hostTurn_waitDone (s := (s.withHost rest).withTurn .host) h.outOfReset, pollDone_eq,
    if_neg (by simp [hpoll])]
  rfl

theorem step_of_running {c : Command} (hc : s.seq.command = some c) (op : HostOp) :
    step (s.withHost ({ delay := 1, op := op } :: rest)) =
      exec c.instr ((s.withHost (op.now :: rest)).withTurn .sequencer) := by
  rw [step_later h, sequencerTurn_of_command (s := s.withHost (op.now :: rest)) h.outOfReset hc]

end

/-- `WAITDONE` on a running command that completes in one sequencer step: a poll that finds DONE 0, the step, and a poll
that finds it 1. -/
theorem runsTo_waitDone {s u : State} {c : Command} (h : Undisturbed s) (hs : s.done = false)
    (hc : s.seq.command = some c) (hu : Undisturbed u) (hd : u.done = true)
    (hrun : ∀ plan w, exec c.instr (((s.readReturns w).withHost plan).withTurn .sequencer) =
      .next (((u.readReturns w).withHost plan).withTurn .sequencer)) :
    RunsTo Script.waitDone s ((u.readReturns u.statusWord).withTurn .host) := by
  intro rest
  have command := step_of_running (undisturbed_of_read h s.statusWord .host) rest (c := c) hc .waitDone
  have completion := command.trans (hrun (HostOp.waitDone.now :: rest) s.statusWord)
  have poll := step_poll_of_done (undisturbed_of_read hu s.statusWord .sequencer) rest hd
  rw [statusWord_of_read, read_of_read, withHost_withTurn] at poll
  have first := step_poll_of_not_done h rest hs
  exact ⟨3, reaches_succ first (reaches_succ completion (reaches_succ poll (reaches_zero _)))⟩

/-- The word 2 written to STATUS clears DONE and no other flag (R25). -/
theorem exec_ack (s : State) : exec (.statusW1c 0x00000002#32) s = .next { s with done := false } := by
  have hbits : (0x00000002#32 : Word).getLsbD 1 = true ∧ (0x00000002#32 : Word).getLsbD 8 = false ∧
      (0x00000002#32 : Word).getLsbD 9 = false ∧ (0x00000002#32 : Word).getLsbD 10 = false := by decide
  obtain ⟨b1, b8, b9, b10⟩ := hbits
  rw [exec_statusW1c, b1, b8, b9, b10]
  simp only [w1c, Bool.not_true, Bool.and_false, Bool.not_false, Bool.and_true]

/-- `s` after its host has seen DONE and acknowledged it, with `w` as the word of the last poll. -/
def State.acknowledged (w : Word) (s : State) : State := { s with done := false, readData := w, turn := .host }

/-- `ACK` (R105). -/
theorem runsTo_ack {s : State} (h : Undisturbed s) (ht : s.turn = .host) :
    RunsTo Script.ack s { s with done := false } := by
  refine runsTo_write h (decodeWrite_of_decodeMmio (a := 0x014) rfl) fun rest => ?_
  rw [withTurn_eq_self (s := s.withHost rest) ht]
  exact exec_ack _

/-- `RUN m` on an idle block, for a command that its first sequencer step completes. -/
theorem runsTo_run {s u : State} {c : Command} (h : NoReset s) (hi : s.seq = .idle) (hc : c.instr.wellFormed = true)
    (hstart : Undisturbed ((s.withTurn .host).accept c)) (hnot : ((s.withTurn .host).accept c).done = false)
    (hu : Undisturbed u) (hd : u.done = true)
    (hrun : ∀ plan w, exec c.instr (((((s.withTurn .host).accept c).readReturns w).withHost plan).withTurn .sequencer) =
      .next (((u.readReturns w).withHost plan).withTurn .sequencer)) :
    RunsTo (Script.run c) s (u.acknowledged u.statusWord) := by
  have hcommand : ((s.withTurn .host).accept c).seq.command = some c := by
    rw [accept_seq]
    rfl
  have hwait := runsTo_waitDone hstart hnot hcommand hu hd hrun
  exact ((runsTo_cmd h hi hc).append hwait).append (runsTo_ack (undisturbed_of_read hu _ _) rfl)

/-- `s` as STORE_CLEAR leaves it: accepted, run and completed (R115). -/
def State.cleared (s : State) : State := (((s.withTurn .host).accept .storeClear).clearStore).complete .ok

/-- `RUN STORE_CLEAR`. -/
theorem runsTo_run_storeClear {s : State} (h : NoReset s) (hi : s.seq = .idle) :
    RunsTo (Script.run .storeClear) s (s.cleared.acknowledged s.cleared.statusWord) :=
  runsTo_run h hi rfl { h with unscanned := rfl } rfl { h with unscanned := rfl } rfl fun _ _ => rfl

theorem exec_storeCommit_of_committable {s : State} (ht : s.turn = .sequencer) (hv : s.storeValid = false)
    (hc : Committable s) : exec .storeCommit s = .next ((s.commit s.commitLength).complete .ok) := by
  rw [exec_storeCommit_of_sequencer ht, completeWith_of_ok (tryCommit_of_committable hv hc)]

/-- `s` as a STORE_COMMIT that succeeds leaves it (R124). -/
def State.committed (s : State) : State :=
  (((s.withTurn .host).accept .storeCommit).commit s.commitLength).complete .ok

/-- `RUN STORE_COMMIT` of a load that meets every check. -/
theorem runsTo_run_storeCommit {s : State} (h : Loading s) (hc : Committable s) :
    RunsTo (Script.run .storeCommit) s (s.committed.acknowledged s.committed.statusWord) :=
  runsTo_run h.toNoReset h.idle rfl { h with unscanned := rfl } rfl { h with unscanned := rfl } rfl fun _ _ =>
    exec_storeCommit_of_committable rfl h.notCommitted { hc with }

/-! ## The header writes of a load (R134) -/

/-- ST_CFG reads back the fields it is made of. -/
theorem stCfgWord_fields {c : BitVec 6} (t r : Bool) (hpos : 1 ≤ c.toNat) (hmax : c.toNat ≤ 32) :
    channelsOf (stCfgWord c t r) = c ∧ (stCfgWord c t r).getLsbD 8 = t ∧ (stCfgWord c t r).getLsbD 9 = r := by
  refine ⟨BitVec.eq_of_toNat_eq ?_, ?_, ?_⟩
  · rw [toNat_channelsOf, toNat_stCfgWord]
    have hmod : (c.toNat + (if t then 2 ^ 8 else 0) + if r then 2 ^ 9 else 0) % 64 = c.toNat := by
      split <;> split <;> omega
    rw [hmod, if_neg (by omega), min_eq_right hmax]
  · rw [stCfgWord, BitVec.getLsbD_append, if_neg (by decide), BitVec.getLsbD_append, if_neg (by decide)]
    exact getLsbD_append_flagBit_zero _ t
  · rw [stCfgWord, BitVec.getLsbD_append, if_neg (by decide), BitVec.getLsbD_append, if_neg (by decide)]
    exact (getLsbD_append_flagBit_succ _ t 0).trans (getLsbD_append_flagBit_zero _ r)

/-- ST_ENMASK as the load writes it: only where it differs from its reset value. -/
def State.maskWrite (s : State) : Option Word := if s.enMask != 0#32 then some s.enMask else none

/-- `u` with the header registers of `s` as the load of its file writes them. -/
def State.withHeaderOf (s u : State) : State :=
  { u with
    channels := s.channels
    trigValid := s.trigValid
    rateValid := s.rateValid
    rate := s.rateWrite.getD u.rate
    trigger := s.triggerWrite.getD u.trigger
    enMask := s.maskWrite.getD u.enMask
    absLen := s.absLen }

theorem fileHeader_mask (s : State) :
    s.fileHeader.enabledChannels.map (fun n => BitVec.ofInt 32 n) = s.maskWrite := by
  cases hm : s.enMask != 0#32 <;> simp [State.fileHeader, State.maskWrite, hm]

theorem fileHeader_stCfg (s : State) :
    stCfgWord (BitVec.ofNat 6 (min s.channels.toNat 63)) s.triggerWrite.isSome s.rateWrite.isSome =
      stCfgWord s.channels s.trigValid s.rateValid := by
  have hmin : min s.channels.toNat 63 = s.channels.toNat := by
    have := s.channels.isLt
    omega
  have htrig : s.triggerWrite.isSome = s.trigValid := by cases ht : s.trigValid <;> simp [State.triggerWrite, ht]
  have hrate : s.rateWrite.isSome = s.rateValid := by cases hr : s.rateValid <;> simp [State.rateWrite, hr]
  rw [hmin, htrig, hrate, BitVec.ofNat_toNat, BitVec.setWidth_eq]

theorem loadsBy_headerWrites {s : State} (hs : FieldInv s) :
    LoadsBy (s.fileHeader.writes s.channels.toNat s.rateWrite s.triggerWrite (some s.absLen)) s.withHeaderOf := by
  obtain ⟨hpos, hmax⟩ := hs.channels
  obtain ⟨hchannels, htrig, hrate⟩ := stCfgWord_fields s.trigValid s.rateValid hpos hmax
  have hcfg := loadsBy_stCfg (stCfgWord s.channels s.trigValid s.rateValid)
  rw [hchannels, htrig, hrate] at hcfg
  rw [FileHeader.writes, fileHeader_stCfg, fileHeader_mask]
  have all := (((((((hcfg.append (loadsBy_stRate s.rateWrite)).append (loadsBy_stTrigger s.triggerWrite)).append
    (loadsBy_stEnMask s.maskWrite)).append (loadsBy_stAbsLen (some s.absLen))).append loadsBy_nil).append
    loadsBy_nil).append loadsBy_nil)
  intro u hu
  have hall := all u hu
  simp only [Function.comp_apply, id_eq] at hall
  exact hall

/-! ## The data writes of a load (R112, R117) -/

/-- `t` holds the first `n` entries of `s`, in a load that is no raw one. -/
structure Copied (s : State) (n : Nat) (t : State) : Prop where
  memory : t.mem.wf = true
  notRaw : t.loadMode ≠ .raw
  count : t.nTrans.toNat = n
  entries : ∀ i < n, t.v i = s.v i ∧ t.t i = s.t i

/-- Appending the next entry copies one more. -/
theorem copied_append {s t : State} {n : Nat} (h : Copied s n t) (hn : n < 2 ^ 21) :
    Copied s (n + 1)
      { t.appendTransition (s.entry n).1 (s.entry n).2 with pushValue := (s.entry n).1, loadMode := .push } where
  memory := appendTransition_wf h.memory _ _
  notRaw := nofun
  count := by
    show (t.nTrans + 1#32).toNat = n + 1
    rw [toNat_add_one (by have := h.count; omega), h.count]
  entries i hi := by
    obtain hlt | rfl : i < n ∨ i = n := by omega
    · have hlt' : i < t.nTrans.toNat := by rwa [h.count]
      obtain ⟨hv, ht⟩ := h.entries i hlt
      exact ⟨(v_appendTransition_of_lt h.memory _ _ hlt').trans hv,
        (t_appendTransition_of_lt h.memory _ _ hlt').trans ht⟩
    · have hv := v_appendTransition_same h.memory (s.entry i).1 (s.entry i).2
      have ht := t_appendTransition_same h.memory (s.entry i).1 (s.entry i).2
      rw [h.count] at hv ht
      exact ⟨hv, ht⟩

/-- `u` with the entries and the push registers of `t`. -/
def State.withLoadOf (u t : State) : State :=
  { u with mem := t.mem, nTrans := t.nTrans, pushValue := t.pushValue, loadMode := t.loadMode }

/-- The pushes of `k` more entries, where there is room for them. -/
theorem runsTo_pushes (s : State) (k : Nat) {j : Nat} {u : State} (h : Loading u) (hc : Copied s j u)
    (ho : u.loadOvf = false) (hmax : u.nMax.toNat ≤ 2 ^ 21) (hfit : j + k ≤ u.nMax.toNat) :
    ∃ t, RunsTo (((List.range' j k).map s.entry).flatMap (fun p => Script.push p.1 p.2)) u t ∧ Copied s (j + k) t ∧
      t = u.withLoadOf t := by
  induction k generalizing j u with
  | zero => exact ⟨u, runsTo_nil u, hc, rfl⟩
  | succ k ih =>
    have hne : u.nTrans ≠ u.nMax := fun e => by
      have hcount := hc.count
      rw [e] at hcount
      omega
    obtain ⟨t, hrun, hcopied, hframe⟩ :=
      ih (u := { u.appendTransition (s.entry j).1 (s.entry j).2 with pushValue := (s.entry j).1, loadMode := .push })
        { h with } (copied_append hc (by omega)) ho hmax (by show j + 1 + k ≤ u.nMax.toNat; omega)
    refine ⟨t, ?_, by rwa [Nat.add_right_comm] at hcopied, hframe⟩
    rw [List.range'_succ, List.map_cons, List.flatMap_cons]
    exact (runsTo_push h ho hc.notRaw hne _ _).append hrun

/-- A copy of a committed store meets every check of STORE_COMMIT. -/
theorem committable_of_copied {s t : State} (hs : StoreInv s) (h : Copied s s.nTrans.toNat t)
    (hlen : t.absLen = s.absLen) (ho : t.loadOvf = false) (hx : t.loadMixed = false) : Committable t := by
  have hpos := hs.nonEmpty
  have value {i : Nat} (hi : i < s.nTrans.toNat) : t.v i = s.v i := (h.entries i hi).1
  have time {i : Nat} (hi : i < s.nTrans.toNat) : t.t i = s.t i := (h.entries i hi).2
  have hlength : t.commitLength.toNat = s.abs := by rw [commitLength_of_not_raw h.notRaw, hlen]; rfl
  refine ⟨ho, hx, by rw [h.count]; omega, (time hpos).trans hs.timeZero, fun i hi h1 => ?_, fun i hi h1 => ?_, ?_, ?_⟩
  · rw [h.count] at hi
    rw [time hi, time (by omega)]
    exact hs.rising i hi h1
  · rw [h.count] at hi
    rw [value hi, value (by omega)]
    exact hs.differs i hi h1
  · rw [hlength]
    exact Nat.one_le_iff_ne_zero.1 hs.lengthPositive
  · rw [hlength, h.count, time (by omega)]
    exact hs.covers

/-! ## The whole load (R138) -/

/-- `t` has committed the store of `s`: header, values and timestamps. -/
structure LoadedBack (s t : State) : Prop where
  committed : t.storeValid = true
  nTrans : t.nTrans = s.nTrans
  absLen : t.absLen = s.absLen
  channels : t.channels = s.channels
  rateValid : t.rateValid = s.rateValid
  rate : s.rateValid = true → t.rate = s.rate
  trigValid : t.trigValid = s.trigValid
  trigger : s.trigValid = true → t.trigger = s.trigger
  enMask : t.enMask = s.enMask
  report : t.loadReport = .ok ()
  entries : ∀ i, i < s.nTrans.toNat → t.v i = s.v i ∧ t.t i = s.t i

theorem rateWrite_getD {s : State} (h : s.rateValid = true) (old : Word) : s.rateWrite.getD old = s.rate := by
  simp [State.rateWrite, h]

theorem triggerWrite_getD {s : State} (h : s.trigValid = true) (old : Word) : s.triggerWrite.getD old = s.trigger := by
  simp [State.triggerWrite, h]

/-- Over the reset value of ST_ENMASK the optional write leaves the mask of `s`. -/
theorem maskWrite_getD_zero (s : State) : s.maskWrite.getD 0#32 = s.enMask := by
  by_cases h : s.enMask = 0#32 <;> simp [State.maskWrite, h]

/-- The load script of a committed store, on a block just out of reset, commits that store again. -/
theorem runsTo_loadScript {s : State} (hinv : Inv s) (hv : s.storeValid = true) :
    ∃ t, RunsTo s.loadScript (State.resetWith s.nMax s.eMax) t ∧ LoadedBack s t := by
  have hstore := hinv.store hv
  set s0 := State.resetWith s.nMax s.eMax
  have hclear := runsTo_run_storeClear (s := s0) ⟨rfl, rfl⟩ rfl
  obtain ⟨hloading, hheader⟩ := loadsBy_headerWrites hinv.fields (s0.cleared.acknowledged s0.cleared.statusWord)
    ⟨⟨rfl, rfl⟩, rfl, rfl, rfl⟩
  set s2 := s.withHeaderOf (s0.cleared.acknowledged s0.cleared.statusWord)
  obtain ⟨u, hdata, hcopied, hframe⟩ := runsTo_pushes s s.nTrans.toNat (j := 0) hloading
    ⟨rfl, nofun, rfl, nofun⟩ rfl hinv.fields.nMax.2 (by rw [Nat.zero_add]; exact hinv.fields.nTrans)
  rw [Nat.zero_add] at hcopied
  rw [← List.range_eq_range'] at hdata
  have hu : Loading u := by rw [hframe]; exact { hloading with }
  have hcommittable := committable_of_copied hstore hcopied (by rw [hframe]; rfl) (by rw [hframe]; rfl)
    (by rw [hframe]; rfl)
  have hcommit := runsTo_run_storeCommit hu hcommittable
  have hread := runsTo_rd_errCode (s := u.committed.acknowledged u.committed.statusWord) { hu with unscanned := rfl }
  have hlength : u.commitLength = s.absLen := by
    rw [commitLength_of_not_raw hcopied.notRaw, hframe]
    rfl
  refine ⟨_, (((hclear.append hheader).append hdata).append hcommit).append hread, rfl,
    BitVec.eq_of_toNat_eq hcopied.count, hlength, ?channels, ?rateValid, fun hr => ?rate, ?trigValid,
    fun ht => ?trigger, ?enMask,
    if_pos ((toWord_eq_zero_iff _).2 rfl), hcopied.entries⟩
  case channels => show u.channels = _; rw [hframe]; rfl
  case rateValid => show u.rateValid = _; rw [hframe]; rfl
  case rate => show u.rate = _; rw [hframe]; exact rateWrite_getD hr _
  case trigValid => show u.trigValid = _; rw [hframe]; rfl
  case trigger => show u.trigger = _; rw [hframe]; exact triggerWrite_getD ht _
  case enMask => show u.enMask = _; rw [hframe]; exact maskWrite_getD_zero s

end Sys2Proof.Machine
end

section
/-! CERTIFICATE. The capture file (spec/40_store.md R134 to R138). -/

namespace Sys2Proof.Certificates

open Sys2Proof.Machine Sys2Proof.Safety

/-- Settles O59: the file loads to `State.loadScript` (`loadFile_serialise`), and its run is put together line by line
(`runsTo_loadScript`). -/
theorem serialisedStoreLoadsBack : Obligations.SerialisedStoreLoadsBack := by
  refine ⟨fun n lines script => loadFile_ends_with_commit, loadReport_read_errCode, fun s hinv hv => ?_⟩
  refine ⟨_, loadFile_serialise (hinv.store hv).nonEmpty hinv.fields.nTrans, ?_⟩
  obtain ⟨t, hrun, hback⟩ := runsTo_loadScript hinv hv
  obtain ⟨k, hk⟩ := hrun []
  rw [List.append_nil] at hk
  exact ⟨k, t.withHost [], hk, rfl, hback.committed, hback.nTrans, hback.absLen, hback.channels, hback.rateValid,
    hback.rate, hback.trigValid, hback.trigger, hback.enMask, hback.report, hback.entries⟩

end Sys2Proof.Certificates
end

section
/-! SUPPORT. The baud-rate estimator (spec/41_baud.md): NV and the timestamps below it, the edges of a masked line and
the gaps between them, and the histogram as the distinct durations with their counts. -/

namespace Sys2Proof.Machine

open Sys2Proof.Safety Sys2Proof.Statement

/-! ## Transitions of a committed store (R13, R14, R111) -/

section
variable {s : State} (h : StoreInv s)
include h

/-- The committed timestamps rise over any distance, not only from one entry to the next. -/
theorem t_lt_t {i j : Nat} (hij : i < j) (hj : j < s.nTrans.toNat) : s.t i < s.t j := by
  induction j, hij using Nat.le_induction with
  | base => exact h.rising (i + 1) hj (by omega)
  | succ j hij ih => exact (ih (by omega)).trans (h.rising (j + 1) hj (by omega))

/-- The index of R126 at `ABS_LEN - 1` is the last transition below ABS_LEN. -/
theorem lt_nv_iff {i : Nat} : i < s.nv ↔ i < s.nTrans.toNat ∧ s.t i < s.abs := by
  obtain ⟨hlt, hle, hlast⟩ := isSampleIndex_sampleIndexAt h (s.abs - 1)
  have hpos := h.lengthPositive
  rw [State.nv, Nat.lt_succ_iff]
  constructor
  · intro hi
    have ht : s.t i ≤ s.t (s.sampleIndexAt (s.abs - 1)) := by
      obtain rfl | hi := hi.eq_or_lt
      · exact le_rfl
      · exact (t_lt_t h hi hlt).le
    omega
  · rintro ⟨hi, ht⟩
    by_contra hgt
    have := hlast i (by omega) hi
    omega

end

theorem mem_innerIndices {s : State} {i : Nat} : i ∈ s.innerIndices ↔ 1 ≤ i ∧ i < s.nv := by
  rw [State.innerIndices, List.mem_range'_1]
  omega

/-! ## Edges and durations (R140, R141) -/

/-- The edges `e_1 .. e_K` of the line under mask M below ABS_LEN (R140). -/
def State.maskEdges (s : State) (mask : Word) : List Nat := s.innerIndices.filter (s.maskEdge mask)

theorem durations_eq (s : State) (mask : Word) : s.durations mask = durationsFrom s.t 0 (s.maskEdges mask) := rfl

theorem mem_maskEdges {s : State} {mask : Word} {i : Nat} :
    i ∈ s.maskEdges mask ↔ 1 ≤ i ∧ i < s.nv ∧ s.v i &&& mask ≠ s.v (i - 1) &&& mask := by
  rw [State.maskEdges, List.mem_filter, mem_innerIndices, State.maskEdge, bne_iff_ne, and_assoc]

theorem maskEdges_pairwise_lt (s : State) (mask : Word) : (s.maskEdges mask).Pairwise (· < ·) :=
  (List.pairwise_lt_range' 1).filter _

/-- Time 0 and then the times of the edges rise strictly: entry 0 is no edge. -/
theorem maskEdges_times_rise {s : State} (h : StoreInv s) (mask : Word) :
    (0 :: (s.maskEdges mask).map s.t).Pairwise (· < ·) := by
  have inStore {i : Nat} (hi : i ∈ s.maskEdges mask) : 0 < i ∧ i < s.nTrans.toNat := by
    obtain ⟨h1, hnv, -⟩ := mem_maskEdges.1 hi
    exact ⟨h1, ((lt_nv_iff h).1 hnv).1⟩
  rw [List.pairwise_cons, List.forall_mem_map, List.pairwise_map]
  constructor
  · intro i hi
    obtain ⟨hpos, hn⟩ := inStore hi
    exact h.timeZero ▸ t_lt_t h hpos hn
  · exact (maskEdges_pairwise_lt s mask).imp_of_mem fun _ hj hij => t_lt_t h hij (inStore hj).2

section
variable (time : Nat → Nat)

theorem length_durationsFrom (prev : Nat) (es : List Nat) : (durationsFrom time prev es).length = es.length := by
  induction es generalizing prev with
  | nil => rfl
  | cons i es ih => rw [durationsFrom, List.length_cons, ih, List.length_cons]

/-- Each duration is measured from the edge before it, the first from `prev`. -/
theorem getElem?_durationsFrom {prev k i : Nat} {es : List Nat} (h : es[k]? = some i) :
    (durationsFrom time prev es)[k]? =
      some (time i - (if k = 0 then prev else time (es.getD (k - 1) 0))) := by
  induction es generalizing prev k with
  | nil => simp at h
  | cons e es ih =>
    rw [durationsFrom]
    cases k with
    | zero =>
      obtain rfl : e = i := Option.some.inj h
      rfl
    | succ k =>
      rw [List.getElem?_cons_succ] at h ⊢
      rw [ih h]
      cases k <;> rfl

theorem one_le_of_mem_durationsFrom {prev : Nat} {es : List Nat} (h : (prev :: es.map time).Pairwise (· < ·)) :
    ∀ d ∈ durationsFrom time prev es, 1 ≤ d := by
  induction es generalizing prev with
  | nil => nofun
  | cons i es ih =>
    obtain ⟨hprev, hrest⟩ := List.pairwise_cons.1 h
    rw [durationsFrom, List.forall_mem_cons]
    exact ⟨Nat.le_sub_of_add_le' (hprev (time i) List.mem_cons_self), ih hrest⟩

end

/-! ## The histogram (R142) -/

theorem eraseDups_concat (ds : List Nat) (d : Nat) :
    (ds ++ [d]).eraseDups = if d ∈ ds then ds.eraseDups else ds.eraseDups ++ [d] := by
  rw [List.eraseDups_append]
  split <;> simp_all [List.removeAll, List.eraseDups_cons]

/-- The distinct elements of a list stand in order of first occurrence. -/
theorem eraseDups_pairwise_idxOf (ds : List Nat) :
    ds.eraseDups.Pairwise (fun a b => ds.idxOf a < ds.idxOf b) := by
  induction ds using List.reverseRecOn with
  | nil => exact .nil
  | append_singleton ds d ih =>
    have old : ds.eraseDups.Pairwise (fun a b => (ds ++ [d]).idxOf a < (ds ++ [d]).idxOf b) :=
      ih.imp_of_mem fun ha hb hab => by
        rwa [List.idxOf_append_of_mem (List.mem_eraseDups.1 ha), List.idxOf_append_of_mem (List.mem_eraseDups.1 hb)]
    rw [eraseDups_concat]
    split
    · exact old
    · next hd =>
      refine List.pairwise_append.2 ⟨old, List.pairwise_singleton _ _, fun a ha b hb => ?_⟩
      obtain rfl := List.mem_singleton.1 hb
      have ha := List.mem_eraseDups.1 ha
      rw [List.idxOf_append_of_mem ha, List.idxOf_append_of_notMem hd]
      exact Nat.lt_add_right _ (List.idxOf_lt_length_of_mem ha)

theorem eraseDups_nodup (ds : List Nat) : ds.eraseDups.Nodup :=
  (eraseDups_pairwise_idxOf ds).imp fun h e => h.ne (congrArg ds.idxOf e)

/-- Each key with its count in `ds`. -/
def tally (ds keys : List Nat) : Histogram := keys.map fun d => (d, ds.count d)

theorem tally_cons (ds : List Nat) (k : Nat) (keys : List Nat) :
    tally ds (k :: keys) = (k, ds.count k) :: tally ds keys := rfl

theorem map_fst_tally (ds keys : List Nat) : (tally ds keys).map Prod.fst = keys := by
  rw [tally, List.map_map]
  exact List.map_id keys

theorem snd_of_mem_tally {ds keys : List Nat} {e : Nat × Nat} (h : e ∈ tally ds keys) : e.2 = ds.count e.1 := by
  obtain ⟨d, -, rfl⟩ := List.mem_map.1 h
  rfl

/-- One more `d` changes no count of other keys. -/
theorem tally_concat_of_notMem {ds keys : List Nat} {d : Nat} (h : d ∉ keys) :
    tally (ds ++ [d]) keys = tally ds keys :=
  List.map_congr_left fun k hk => by
    rw [List.count_append, List.count_singleton, beq_eq_false_iff_ne.2 (fun e : d = k => h (e ▸ hk))]
    rfl

/-- A duration met before is counted at its place, a new one at the end. -/
theorem add_tally {ds keys : List Nat} (d : Nat) (hkeys : keys.Nodup) (hd : d ∉ keys → d ∉ ds) :
    (tally ds keys).add d = tally (ds ++ [d]) (if d ∈ keys then keys else keys ++ [d]) := by
  induction keys with
  | nil => simp [tally, Histogram.add, List.count_eq_zero.2 (hd List.not_mem_nil)]
  | cons k keys ih =>
    obtain ⟨hk, hkeys⟩ := List.nodup_cons.1 hkeys
    rw [tally_cons, Histogram.add]
    by_cases h : k = d
    · subst h
      rw [if_pos rfl, if_pos List.mem_cons_self, tally_cons, tally_concat_of_notMem hk, List.count_append,
        List.count_singleton_self]
    · have hmem : d ∈ k :: keys ↔ d ∈ keys := by simp [Ne.symm h]
      have hcount : (ds ++ [d]).count k = ds.count k := by simp [Ne.symm h]
      rw [if_neg h, ih hkeys fun hmem' => hd (hmem.not.2 hmem')]
      simp only [hmem]
      split <;> simp only [List.cons_append, tally_cons, hcount]

/-- The entries of the histogram are the distinct durations in order of first occurrence, each with its count. -/
theorem histogramOf_eq_tally (ds : List Nat) : histogramOf ds = tally ds ds.eraseDups := by
  induction ds using List.reverseRecOn with
  | nil => rfl
  | append_singleton ds d ih =>
    rw [histogramOf, List.foldl_concat, ← histogramOf, ih,
      add_tally d (eraseDups_nodup ds) (mt List.mem_eraseDups.2), eraseDups_concat]
    simp only [List.mem_eraseDups]

/-! ## The mode and the extremes (R143, R144) -/

/-- The scan keeps the first of the entries with the highest count. -/
theorem modeOf_splits (first : Nat × Nat) (rest : Histogram) :
    ∃ before after, first :: rest = before ++ modeOf first rest :: after ∧
      (∀ e ∈ before, e.2 < (modeOf first rest).2) ∧ ∀ e ∈ after, e.2 ≤ (modeOf first rest).2 := by
  induction rest using List.reverseRecOn with
  | nil => exact ⟨[], [], rfl, nofun, nofun⟩
  | append_singleton rest e ih =>
    obtain ⟨before, after, hsplit, hbefore, hafter⟩ := ih
    rw [modeOf, List.foldl_concat, ← modeOf]
    split
    · next hlt =>
      refine ⟨first :: rest, [], rfl, fun x hx => ?_, nofun⟩
      rw [hsplit, List.mem_append, List.mem_cons] at hx
      obtain hx | rfl | hx := hx
      · exact (hbefore x hx).trans hlt
      · exact hlt
      · exact (hafter x hx).trans_lt hlt
    · next hle =>
      refine ⟨before, after ++ [e], ?_, hbefore, fun x hx => ?_⟩
      · rw [← List.cons_append, hsplit, List.append_assoc, List.cons_append]
      · obtain hx | hx := List.mem_append.1 hx
        · exact hafter x hx
        · exact List.mem_singleton.1 hx ▸ Nat.le_of_not_lt hle

theorem estimateOf_of_eraseDups {ds rest : List Nat} {first : Nat} (h : ds.eraseDups = first :: rest) :
    estimateOf ds =
      { best := (modeOf (first, ds.count first) (tally ds rest)).1
        least := rest.foldl min first
        most := rest.foldl max first } := by
  rw [estimateOf, histogramOf_eq_tally, h, tally_cons]
  simp only [tally, List.foldl_map]

section
variable {ds : List Nat} (h : ds ≠ [])
include h

theorem eraseDups_eq_cons : ∃ first rest, ds.eraseDups = first :: rest := by
  obtain ⟨d, hd⟩ := List.exists_mem_of_ne_nil ds h
  exact List.exists_cons_of_ne_nil (List.ne_nil_of_mem (List.mem_eraseDups.2 hd))

/-- Among the distinct durations, those before best are rarer, and those after it no more frequent. -/
theorem estimateOf_best_splits :
    ∃ before after, ds.eraseDups = before ++ (estimateOf ds).best :: after ∧
      (∀ d ∈ before, ds.count d < ds.count (estimateOf ds).best) ∧
      ∀ d ∈ after, ds.count d ≤ ds.count (estimateOf ds).best := by
  obtain ⟨first, rest, hkeys⟩ := eraseDups_eq_cons h
  obtain ⟨before, after, hsplit, hbefore, hafter⟩ := modeOf_splits (first, ds.count first) (tally ds rest)
  rw [← tally_cons, ← hkeys] at hsplit
  set m := modeOf (first, ds.count first) (tally ds rest)
  have counted : ∀ e ∈ before ++ m :: after, e.2 = ds.count e.1 := fun _ he => snd_of_mem_tally (hsplit ▸ he)
  have hbest : (estimateOf ds).best = m.1 := by rw [estimateOf_of_eraseDups hkeys]
  rw [hbest, ← counted m (by simp)]
  refine ⟨before.map Prod.fst, after.map Prod.fst, ?_, List.forall_mem_map.2 fun e he => ?_,
    List.forall_mem_map.2 fun e he => ?_⟩
  · rw [← List.map_cons, ← List.map_append, ← hsplit, map_fst_tally]
  · exact counted e (by simp [he]) ▸ hbefore e he
  · exact counted e (by simp [he]) ▸ hafter e he

theorem estimateOf_best_mem : (estimateOf ds).best ∈ ds := by
  obtain ⟨before, after, hsplit, -, -⟩ := estimateOf_best_splits h
  exact List.mem_eraseDups.1 (hsplit ▸ List.mem_append_right _ List.mem_cons_self)

/-- No duration is more frequent than best, and of those as frequent best occurs first (R143). -/
theorem estimateOf_best_first {d : Nat} (hd : d ∈ ds) :
    ds.count d ≤ ds.count (estimateOf ds).best ∧
      (ds.count d = ds.count (estimateOf ds).best → ds.idxOf (estimateOf ds).best ≤ ds.idxOf d) := by
  obtain ⟨before, after, hsplit, hbefore, hafter⟩ := estimateOf_best_splits h
  have horder := eraseDups_pairwise_idxOf ds
  rw [← List.mem_eraseDups, hsplit, List.mem_append, List.mem_cons] at hd
  rw [hsplit, List.pairwise_append, List.pairwise_cons] at horder
  obtain ⟨-, ⟨hlater, -⟩, -⟩ := horder
  obtain hd | rfl | hd := hd
  · exact ⟨(hbefore d hd).le, fun e => absurd e (hbefore d hd).ne⟩
  · exact ⟨le_rfl, fun _ => le_rfl⟩
  · exact ⟨hafter d hd, fun _ => (hlater d hd).le⟩

theorem estimateOf_least : (estimateOf ds).least ∈ ds ∧ ∀ d ∈ ds, (estimateOf ds).least ≤ d := by
  obtain ⟨first, rest, hkeys⟩ := eraseDups_eq_cons h
  have hmin : ds.eraseDups.min? = some (estimateOf ds).least := by
    rw [estimateOf_of_eraseDups hkeys, hkeys, List.min?_cons']
  simpa only [List.min?_eq_some_iff, List.mem_eraseDups] using hmin

theorem estimateOf_most : (estimateOf ds).most ∈ ds ∧ ∀ d ∈ ds, d ≤ (estimateOf ds).most := by
  obtain ⟨first, rest, hkeys⟩ := eraseDups_eq_cons h
  have hmax : ds.eraseDups.max? = some (estimateOf ds).most := by
    rw [estimateOf_of_eraseDups hkeys, hkeys, List.max?_cons']
  simpa only [List.max?_eq_some_iff, List.mem_eraseDups] using hmax

end

/-! ## ESTIMATE_BAUD (R146) -/

theorem exec_estimateBaud_of_sequencer {s : State} (h : s.turn = .sequencer) :
    exec .estimateBaud s = .next (s.completeWith State.estimateBaud) :=
  commandStep_of_sequencer h _ _

theorem estimateBaud_of_open {s : State} (h : s.storeValid = false) : s.estimateBaud = .error .noStore := by
  simp [State.estimateBaud, h]

theorem estimateBaud_of_committed {s : State} (h : s.storeValid = true) :
    s.estimateBaud = .ok { s with
      result0 := BitVec.ofNat 32 (s.estimate s.snap.arg0).best
      result1 := BitVec.ofNat 32 (s.estimate s.snap.arg0).least
      result2 := BitVec.ofNat 32 (s.estimate s.snap.arg0).most } := by
  simp [State.estimateBaud, h]

end Sys2Proof.Machine
end

section
/-! CERTIFICATE. The statements about the baud-rate estimator (spec/41_baud.md R140 to R146). -/

namespace Sys2Proof.Certificates

open Sys2Proof.Machine Sys2Proof.Safety Sys2Proof.Statement

/-- Settles O33: the edges are `State.maskEdges`, whose times rise strictly from 0 on (`maskEdges_times_rise`). -/
theorem durationsAreTheGapsBetweenEdges : Obligations.DurationsAreTheGapsBetweenEdges := by
  intro s mask h
  refine ⟨fun _ => lt_nv_iff h, s.maskEdges mask, maskEdges_pairwise_lt s mask, fun _ => mem_maskEdges, ?_⟩
  rw [durations_eq]
  exact ⟨length_durationsFrom _ _ _, fun _ _ => getElem?_durationsFrom _,
    one_le_of_mem_durationsFrom _ (maskEdges_times_rise h mask)⟩

/-- Settles O34: the histogram lists the distinct durations by first occurrence (`histogramOf_eq_tally`), and the scan
keeps the first of the most frequent ones (`modeOf_splits`). -/
theorem estimateIsModeMinAndMax : Obligations.EstimateIsModeMinAndMax := by
  refine ⟨rfl, fun ds h => ?_⟩
  obtain ⟨hleast, hleastLe⟩ := estimateOf_least h
  obtain ⟨hmost, hleMost⟩ := estimateOf_most h
  refine ⟨estimateOf_best_mem h, hleast, hmost, fun d hd => ?_⟩
  obtain ⟨hcount, hfirst⟩ := estimateOf_best_first h hd
  exact ⟨hcount, hfirst, hleastLe d hd, hleMost d hd⟩

/-- Settles O32: one case per outcome of the store check. -/
theorem estimateBaudAnswers : Obligations.EstimateBaudAnswers := by
  refine ⟨by decide, fun s ht => ?_⟩
  rw [exec_estimateBaud_of_sequencer ht]
  constructor
  · intro hv
    rw [completeWith_of_error (estimateBaud_of_open hv)]
  · intro hv
    rw [completeWith_of_ok (estimateBaud_of_committed hv)]
    rfl

end Sys2Proof.Certificates
end

section
/-! SUPPORT. Emission as a whole (spec/44_sequencer.md R221, spec/42_spi.md R172), and the run of a decode that the host
only watches (R105): which fields move beside the records, and how the sequencer gets its next turn. -/

namespace Sys2Proof.Machine

open Sys2Proof.Safety Sys2Proof.Statement

/-! ## Bytes of the event memory (R47, R73) -/

/-- A byte outside a written record reads as before. -/
theorem readByte_writeRecord_of_ne {m : Memory} (hm : m.wf = true) {k x : Nat} (r : Record)
    (h : x < eventAddr k ∨ eventAddr k + 8 ≤ x) : (m.writeRecord k r).readByte x = m.readByte x := by
  rw [Memory.writeRecord, Memory.readByte_writeWord_of_ne (Memory.writeWord_wf hm _ _) _ (by omega),
    Memory.readByte_writeWord_of_ne hm _ (by omega)]

/-- A byte outside a run of written records reads as before. -/
theorem readByte_writeRecords_of_ne {m : Memory} (hm : m.wf = true) {k x : Nat} (rs : List Record)
    (h : x < eventAddr k ∨ eventAddr (k + rs.length) ≤ x) : (m.writeRecords k rs).readByte x = m.readByte x := by
  induction rs generalizing m k with
  | nil => rfl
  | cons r rs ih =>
    simp only [List.length_cons, eventAddr] at h
    rw [Memory.writeRecords, ih (Memory.writeRecord_wf hm k r) (by unfold eventAddr; omega),
      readByte_writeRecord_of_ne hm r (by unfold eventAddr; omega)]

/-! ## A run of emissions -/

theorem emitAll_append (s : State) (es fs : List Event) : s.emitAll (es ++ fs) = (s.emitAll es).emitAll fs :=
  List.foldl_append

/-- Past an overflow nothing more is emitted (R221). -/
theorem emitAll_of_overflowed {s : State} (h : s.evtOvf = true) (es : List Event) : s.emitAll es = s := by
  induction es with
  | nil => rfl
  | cons e es ih =>
    have hemit : s.emit e = s := if_pos h
    rw [State.emitAll, List.foldl_cons, hemit]
    exact ih

/-- A run of emissions writes the records that fit, counts them, and notes whether some did not fit (R221). -/
theorem emitAll_eq {s : State} (ho : s.evtOvf = false) (hc : s.evtCount.toNat ≤ s.eMax.toNat) (es : List Event) :
    s.emitAll es =
      { s with
        mem := s.mem.writeRecords s.evtCount.toNat (taken (s.eMax.toNat - s.evtCount.toNat) es)
        evtCount := BitVec.ofNat 32 (s.evtCount.toNat + (taken (s.eMax.toNat - s.evtCount.toNat) es).length)
        evtOvf := decide (s.eMax.toNat < s.evtCount.toNat + es.length) } := by
  induction es generalizing s with
  | nil => simp [State.emitAll, taken, Memory.writeRecords, ← ho, Nat.not_lt.2 hc]
  | cons e es ih =>
    rw [State.emitAll, List.foldl_cons, ← State.emitAll]
    obtain ⟨h, -⟩ | ⟨-, hfull, he⟩ | ⟨-, hroom, he⟩ := emit_cases s e
    · simp [ho] at h
    · rw [he, emitAll_of_overflowed rfl]
      simp [hfull, taken, Memory.writeRecords]
    · have hne : s.evtCount.toNat ≠ s.eMax.toNat := fun h => hroom (BitVec.eq_of_toNat_eq h)
      have hmax := s.eMax.isLt
      have hnext : (s.evtCount + 1#32).toNat = s.evtCount.toNat + 1 := toNat_add_one (by omega)
      have hcap : s.eMax.toNat - s.evtCount.toNat = s.eMax.toNat - (s.evtCount.toNat + 1) + 1 := by omega
      have hfits : (s.emit e).evtCount.toNat ≤ (s.emit e).eMax.toNat := by
        rw [he]
        show (s.evtCount + 1#32).toNat ≤ s.eMax.toNat
        omega
      rw [ih (s := s.emit e) (by rw [he]; exact ho) hfits, he]
      simp only [hnext, hcap, taken, List.map_cons, List.take_succ_cons, Memory.writeRecords, List.length_cons,
        Nat.add_right_comm _ 1, Nat.add_assoc]

/-- What the emissions of a decode leave in an event memory that its acceptance has emptied. -/
structure EmittedInto (s t : State) (es : List Event) : Prop where
  overflow : t.evtOvf = decide (s.eMax.toNat < es.length)
  records : t.records = taken s.eMax.toNat es
  count : t.evtCount.toNat = (taken s.eMax.toNat es).length
  frame : ∀ a, a < eventAddr 0 ∨ eventAddr t.evtCount.toNat ≤ a → t.mem.readByte a = s.mem.readByte a

theorem emittedInto_emitAll {s : State} (hm : s.mem.wf = true) (ho : s.evtOvf = false) (hc : s.evtCount = 0#32)
    (es : List Event) : EmittedInto s (s.emitAll es) es := by
  have hzero : s.evtCount.toNat = 0 := by rw [hc]; rfl
  have hfits : (taken s.eMax.toNat es).length < 2 ^ 32 := (List.length_take_le _ _).trans_lt s.eMax.isLt
  have hcount : (BitVec.ofNat 32 (taken s.eMax.toNat es).length).toNat = (taken s.eMax.toNat es).length := by
    rw [BitVec.toNat_ofNat, Nat.mod_eq_of_lt hfits]
  have hall := emitAll_eq ho (by omega) es
  simp only [hzero, Nat.zero_add, Nat.sub_zero] at hall
  rw [hall]
  refine ⟨rfl, ?_, hcount, fun a ha => readByte_writeRecords_of_ne hm _ ?_⟩
  · simp only [State.records, hcount, List.range_eq_range', Memory.records_writeRecords hm]
  · simpa only [hcount, Nat.zero_add] using ha

/-! ## What moves while a decode runs, beside its records -/

/-- The sequencer, PROGRESS and what the host's reads and the agents' bookkeeping change (R215, R222, R72). -/
structure RunState where
  seq : Seq
  progress : BitVec 7
  draws : Nat
  busErr : Bool
  readData : Word
  turn : Agent
  host : List HostSlot

/-- `s` with another run state. -/
def State.withRun (r : RunState) (s : State) : State :=
  { s with
    seq := r.seq, progress := r.progress, draws := r.draws, busErr := r.busErr, readData := r.readData,
    turn := r.turn, host := r.host }

/-- The run state of `s`. -/
def State.runState (s : State) : RunState :=
  { seq := s.seq, progress := s.progress, draws := s.draws, busErr := s.busErr, readData := s.readData,
    turn := s.turn, host := s.host }

/-- Emission neither reads nor writes the run state. -/
theorem emit_withRun (s : State) (r : RunState) (e : Event) : (s.withRun r).emit e = (s.emit e).withRun r := by
  obtain ⟨ho, h⟩ | ⟨ho, hc, h⟩ | ⟨ho, hc, h⟩ := emit_cases s e <;> rw [h]
  · exact if_pos ho
  · exact (if_neg (by simpa [State.withRun] using ho)).trans (if_pos hc)
  · exact (if_neg (by simpa [State.withRun] using ho)).trans (if_neg hc)

theorem emitAll_withRun (s : State) (r : RunState) (es : List Event) :
    (s.withRun r).emitAll es = (s.emitAll es).withRun r := by
  induction es generalizing s with
  | nil => rfl
  | cons e es ih =>
    rw [State.emitAll, List.foldl_cons, emit_withRun, ← State.emitAll, ih]
    rfl

/-! ## The sequencer's next turn (R79, R105) -/

/-- A running command that no reset ends, and whose host only reads and polls for DONE. -/
structure Watched (c : Command) (s : State) : Prop extends NoReset s where
  onlyWatched : OnlyWatched s
  running : s.seq.command = some c
  notDone : s.done = false

/-- As long as the sequencer waits, the run state of `s` can come to be `r`: the same command at the same point, and,
without a host, nothing read. -/
structure Awaits (s : State) (r : RunState) : Prop where
  seq : r.seq = s.seq
  onlyWatched : OnlyWatched (s.withRun r)
  alone : s.host = [] → r.host = [] ∧ r.readData = s.readData ∧ r.busErr = s.busErr

theorem Awaits.trans {s : State} {r q : RunState} (h : Awaits s r) (hq : Awaits (s.withRun r) q) : Awaits s q where
  seq := hq.seq.trans h.seq
  onlyWatched := hq.onlyWatched
  alone hs := by
    obtain ⟨hhost, hread, herr⟩ := h.alone hs
    obtain ⟨hhost', hread', herr'⟩ := hq.alone hhost
    exact ⟨hhost', hread'.trans hread, herr'.trans herr⟩

theorem Watched.withRun {c : Command} {s : State} {r : RunState} (h : Watched c s) (hr : Awaits s r) :
    Watched c (s.withRun r) :=
  { h with onlyWatched := hr.onlyWatched, running := (congrArg Seq.command hr.seq).trans h.running }

theorem step_of_no_reset_event {s : State} (h : s.platform = []) : step s = agentsTurn s := by
  simp only [step, anyTurn, h]

section
variable {c : Command} {s : State} (h : Watched c s)
include h

/-- Where no operation of the host is due, the step is one of the sequencer. -/
theorem step_of_waiting_host (hd : ∀ slot ∈ s.host.head?, slot.delay ≠ 0) :
    ∃ r, Awaits s r ∧ r.turn = .sequencer ∧ step s = exec c.instr (s.withRun r) := by
  obtain ⟨p, d, hpub⟩ := hardwarePublishes_shape s
  cases hh : s.host with
  | nil =>
    refine ⟨{ s.runState with progress := p, draws := d, turn := .sequencer }, ⟨rfl, ?_, fun _ => ⟨hh, rfl, rfl⟩⟩, rfl,
      ?_⟩
    · exact h.onlyWatched
    · rw [step_of_no_reset_event h.platform]
      simp only [agentsTurn, hh]
      rw [hpub]
      exact sequencerTurn_of_command (s := { s with progress := p, draws := d }) h.outOfReset h.running
  | cons slot rest =>
    have hdelay : slot.delay ≠ 0 := hd slot (by simp [hh])
    have hwatch := h.onlyWatched
    simp only [OnlyWatched, hh, List.forall_mem_cons] at hwatch
    refine ⟨{ s.runState with
        progress := p, draws := d, turn := .sequencer, host := { slot with delay := slot.delay - 1 } :: rest },
      ⟨rfl, ?_, fun hs => by simp [hh] at hs⟩, rfl, ?_⟩
    · exact List.forall_mem_cons.2 hwatch
    · rw [step_of_no_reset_event h.platform]
      simp only [agentsTurn, hh, if_neg hdelay]
      rw [hpub]
      exact sequencerTurn_of_command (s := { s with
        progress := p, draws := d, host := { slot with delay := slot.delay - 1 } :: rest }) h.outOfReset h.running

/-- A due operation of a watching host is over after its step, or is a poll that comes again after a turn of the
sequencer. -/
theorem step_of_due_watch {op : HostOp} {rest : List HostSlot} (hh : s.host = { delay := 0, op := op } :: rest) :
    ∃ r, Awaits s r ∧ (r.host = rest ∨ ∀ slot ∈ r.host.head?, slot.delay ≠ 0) ∧ step s = .next (s.withRun r) := by
  obtain ⟨p, d, hpub⟩ := hardwarePublishes_shape s
  have hwatch := h.onlyWatched
  simp only [OnlyWatched, hh, List.forall_mem_cons] at hwatch
  obtain ⟨hop, hrest⟩ := hwatch
  have hstep := step_of_due_host h.platform hh
  rw [hpub] at hstep
  have alone {r : RunState} : s.host = [] → r.host = [] ∧ r.readData = s.readData ∧ r.busErr = s.busErr := by
    simp [hh]
  obtain rfl | ⟨size, a, rfl⟩ := hop
  · rw [hostTurn_waitDone (by exact h.outOfReset), pollDone_eq, if_neg (by simp [h.notDone])] at hstep
    exact ⟨{ s.runState with progress := p, draws := d, readData := _, turn := .host, host := _ },
      ⟨rfl, List.forall_mem_cons.2 ⟨.inl rfl, hrest⟩, alone⟩, .inr (by simp), hstep⟩
  · rw [hostTurn_read (by exact h.outOfReset), busRead_frame] at hstep
    exact ⟨{ s.runState with progress := p, draws := _, readData := _, busErr := _, turn := .host, host := rest },
      ⟨rfl, hrest, alone⟩, .inl rfl, hstep⟩

end

/-- The sequencer gets its next turn, at once where the host does nothing more. -/
theorem reaches_sequencer_turn {c : Command} {s : State} (h : Watched c s) :
    ∃ j r, Awaits s r ∧ r.turn = .sequencer ∧ (s.host = [] → j = 0) ∧
      ∀ t, exec c.instr (s.withRun r) = .next t → Reaches (j + 1) s t := by
  have waiting {u : State} (hu : Watched c u) (hd : ∀ slot ∈ u.host.head?, slot.delay ≠ 0) :
      ∃ j r, Awaits u r ∧ r.turn = .sequencer ∧ (u.host = [] → j = 0) ∧
        ∀ t, exec c.instr (u.withRun r) = .next t → Reaches (j + 1) u t := by
    obtain ⟨r, hr, hturn, hstep⟩ := step_of_waiting_host hu hd
    exact ⟨0, r, hr, hturn, fun _ => rfl, fun t ht => reaches_succ (hstep.trans ht) (reaches_zero t)⟩
  induction hh : s.host generalizing s with
  | nil => simpa only [hh] using waiting h (by simp [hh])
  | cons slot rest ih =>
    obtain ⟨delay, op⟩ := slot
    by_cases hdelay : delay = 0
    · subst hdelay
      obtain ⟨r, hr, hplan, hstep⟩ := step_of_due_watch h hh
      have hw := h.withRun hr
      have hnext : ∃ j q, Awaits (s.withRun r) q ∧ q.turn = .sequencer ∧
          ∀ t, exec c.instr (s.withRun q) = .next t → Reaches (j + 1) (s.withRun r) t := by
        obtain hrest | hwait := hplan
        · obtain ⟨j, q, hq, hturn, -, hrun⟩ := ih hw hrest
          exact ⟨j, q, hq, hturn, hrun⟩
        · obtain ⟨j, q, hq, hturn, -, hrun⟩ := waiting hw hwait
          exact ⟨j, q, hq, hturn, hrun⟩
      obtain ⟨j, q, hq, hturn, hrun⟩ := hnext
      exact ⟨j + 1, q, hr.trans hq, hturn, nofun, fun t ht => reaches_succ hstep (hrun t ht)⟩
    · rw [← hh]
      exact waiting h (by simpa [hh] using hdelay)

end Sys2Proof.Machine
end

section
/-! SUPPORT. The SPI decoder (spec/42_spi.md): its operands and its region, the edges it looks for and the body of its
loop, the output of the whole pass, and its steps up to the completion. -/

namespace Sys2Proof.Machine

open Sys2Proof.Safety Sys2Proof.Statement

/-! ## The snapshot (R158, R179, R217) -/

theorem accept_snap (c : Command) (s : State) : (s.accept c).snap = s.snapshot := by
  cases c <;> rfl

theorem toNat_clampChannel (channels : BitVec 6) (c : BitVec 5) :
    (clampChannel channels c).toNat = min c.toNat (channels.toNat - 1) := by
  have hc := c.isLt
  rw [clampChannel, BitVec.toNat_ofNat, Nat.mod_eq_of_lt (by omega)]

theorem LineBinding.clamp_used (channels : BitVec 6) (l : LineBinding) : (l.clamp channels).used = l.used := by
  unfold LineBinding.clamp
  split
  · next h => exact h.symm
  · rfl

theorem LineBinding.clamp_ch_of_used {l : LineBinding} (h : l.used = true) (channels : BitVec 6) :
    (l.clamp channels).ch = clampChannel channels l.ch := by
  rw [LineBinding.clamp, if_pos h]

/-- The used lines of a snapshot are those of the registers, each channel clamped (R178, R179). -/
theorem usedLines_snapshot (s : State) :
    s.snapshot.usedLines =
      ((Snapshot.lines { s.snapshot with lines0 := s.lines0, lines1 := s.lines1 }).filter (fun l => l.2.used)).map
        (fun l => (l.1, min l.2.ch.toNat (s.channels.toNat - 1))) := by
  have hlines : s.snapshot.lines =
      (Snapshot.lines { s.snapshot with lines0 := s.lines0, lines1 := s.lines1 }).map
        (fun l => (l.1, l.2.clamp s.channels)) := rfl
  rw [Snapshot.usedLines, hlines, List.filter_map, List.map_map]
  simp only [Function.comp_def, LineBinding.clamp_used]
  refine List.map_congr_left fun l hl => ?_
  rw [LineBinding.clamp_ch_of_used (List.mem_filter.1 hl).2, toNat_clampChannel]

/-! ## Edges (R13, R159, R160) -/

section
variable {s : State} {c i : Nat} (hi : 1 ≤ i)
include hi

theorem edge_iff : s.edge c i = true ↔ Changes s c i := by
  simp [State.edge, State.lineAt, Changes, hi]

theorem falling_iff : s.falling c i = true ↔ Falls s c i := by
  rw [State.falling, Bool.and_eq_true, edge_iff hi, State.lineAt, Changes, Falls]
  cases (s.v i).getLsbD c <;> simp

theorem rising_iff : s.rising c i = true ↔ Rises s c i := by
  rw [State.rising, Bool.and_eq_true, edge_iff hi, State.lineAt, Changes, Rises]
  cases (s.v i).getLsbD c <;> simp

theorem spiActive_iff : s.spiActive i = true ↔ ActiveEdge s i := by
  have even : ∀ m : BitVec 2, m.toNat % 2 = 0 ↔ m = 0#2 ∨ m = 2#2 := by decide
  have odd : ∀ m : BitVec 2, ¬m.toNat % 2 = 0 ↔ m = 1#2 ∨ m = 3#2 := by decide
  rw [ActiveEdge, ← even, ← odd, ← rising_iff hi, ← falling_iff hi, State.spiActive]
  by_cases hm : s.snap.spiMode.mode.toNat % 2 = 0 <;> simp only [hm, if_true, if_false] <;> tauto

end

/-! ## The region (R156, R157) -/

/-- No start of frame: no falling edge on /CS below NV. -/
theorem find_falling_eq_none_iff {s : State} {c : Nat} :
    s.innerIndices.find? (s.falling c) = none ↔ ∀ i, 1 ≤ i → i < s.nv → ¬Falls s c i := by
  simp only [List.find?_eq_none, mem_innerIndices, and_imp]
  exact forall_congr' fun i => forall_congr' fun hi => by rw [falling_iff hi]

/-- The start of frame is the least falling edge on /CS. -/
theorem find_falling_of_leastIndex {s : State} {c i : Nat} (h : LeastIndex s.nv (Falls s c) i) :
    s.innerIndices.find? (s.falling c) = some i := by
  obtain ⟨h1, hnv, hfalls, hleast⟩ := h
  refine List.find?_range'_eq_some.2 ⟨(falling_iff h1).2 hfalls, mem_innerIndices.2 ⟨h1, hnv⟩, fun j hj hji => ?_⟩
  rw [Bool.not_eq_true', Bool.eq_false_iff, Ne, falling_iff hj]
  exact hleast j hj hji

section
variable {s : State}

theorem spiRegion_of_cursors (h : s.snap.cursorEn = true) :
    s.spiRegion =
      some { start := s.sampleIndexAt s.snap.cursorA.toNat, stop := s.sampleIndexAt s.snap.cursorB.toNat + 1 } :=
  if_pos h

variable (hc : s.snap.cursorEn = false)
include hc

theorem spiRegion_of_falling {i : Nat} (h : LeastIndex s.nv (Falls s s.snap.spiCh.cs.toNat) i) :
    s.spiRegion = some { start := i, stop := s.nv } := by
  simp [State.spiRegion, hc, find_falling_of_leastIndex h]

variable (hnone : ∀ i, 1 ≤ i → i < s.nv → ¬Falls s s.snap.spiCh.cs.toNat i)
include hnone

theorem spiRegion_of_trigger (h : s.snap.trigValid = true) :
    s.spiRegion = some { start := s.sampleIndexAt (min s.snap.trigger.toNat (s.abs - 1)), stop := s.nv } := by
  simp [State.spiRegion, hc, find_falling_eq_none_iff.2 hnone, h]

theorem spiRegion_of_no_start (h : s.snap.trigValid = false) : s.spiRegion = none := by
  simp [State.spiRegion, hc, find_falling_eq_none_iff.2 hnone, h]

end

/-- Without cursors the region ends at NV. -/
theorem spiRegion_stop_of_no_cursors {s : State} {r : SpiRegion} (hc : s.snap.cursorEn = false)
    (h : s.spiRegion = some r) : r.stop = s.nv := by
  simp only [State.spiRegion, hc, Bool.false_eq_true, if_false] at h
  split at h
  · cases h; rfl
  · split_ifs at h
    cases h; rfl

section
variable {s : State} (h : StoreInv s)
include h

theorem nv_le_nTrans : s.nv ≤ s.nTrans.toNat := ((lt_nv_iff h).1 (Nat.lt_succ_self _)).1

/-- A sample below ABS_LEN belongs to a transition below NV. -/
theorem sampleIndexAt_lt_nv {t : Nat} (ht : t ≤ s.abs - 1) : s.sampleIndexAt t < s.nv := by
  obtain ⟨hlt, hle, -⟩ := isSampleIndex_sampleIndexAt h t
  have hpos := h.lengthPositive
  exact (lt_nv_iff h).2 ⟨hlt, by omega⟩

/-- The region ends at NV at most (R156). -/
theorem spiRegion_stop_le_nv {r : SpiRegion} (hb : s.snap.cursorB.toNat ≤ s.abs - 1) (hr : s.spiRegion = some r) :
    r.stop ≤ s.nv := by
  cases hc : s.snap.cursorEn with
  | true =>
    rw [spiRegion_of_cursors hc] at hr
    cases hr
    exact sampleIndexAt_lt_nv h hb
  | false => exact (spiRegion_stop_of_no_cursors hc hr).le

end

/-! ## Accumulators (R162) -/

theorem getLsbD_flagBit_extended (b : Bool) (k : Nat) :
    (BitVec.zeroExtend 16 (flagBit b)).getLsbD k = (decide (k = 0) && b) := by
  cases k <;> simp [flagBit]

/-- LSB-first a bit is set at its own place. -/
theorem getLsbD_shiftIn_lsbFirst {k : Nat} (hk : k < 16) (acc : BitVec 16) (n : Nat) (b : Bool) :
    (shiftIn true acc n b).getLsbD k = (acc.getLsbD k || (decide (k = n) && b)) := by
  have hplace : (!decide (k < n) && (decide (k - n = 0) && b)) = (decide (k = n) && b) := by
    obtain h | rfl | h := Nat.lt_trichotomy k n
    · simp [h, h.ne]
    · simp
    · simp [h.ne', Nat.sub_eq_zero_iff_le, h]
  rw [shiftIn, if_pos rfl, BitVec.getLsbD_or, BitVec.getLsbD_shiftLeft, getLsbD_flagBit_extended, Bool.and_assoc,
    hplace, decide_eq_true hk, Bool.true_and]

/-- MSB-first the bits before it move up and the new one becomes bit 0. -/
theorem getLsbD_shiftIn_msbFirst {k : Nat} (hk : k < 16) (acc : BitVec 16) (n : Nat) (b : Bool) :
    (shiftIn false acc n b).getLsbD k = if k = 0 then b else acc.getLsbD (k - 1) := by
  rw [shiftIn, if_neg Bool.false_ne_true, BitVec.getLsbD_or, BitVec.getLsbD_shiftLeft, getLsbD_flagBit_extended]
  cases k <;> simp [hk]

theorem assembled_concat (lsbFirst : Bool) (bs : List Bool) (b : Bool) :
    assembled lsbFirst (bs ++ [b]) = shiftIn lsbFirst (assembled lsbFirst bs) bs.length b := by
  simp [assembled, List.zipIdx_append]

theorem getLsbD_assembled_lsbFirst (bs : List Bool) {k : Nat} (hk : k < 16) :
    (assembled true bs).getLsbD k = bs.getD k false := by
  induction bs using List.reverseRecOn with
  | nil => simp [assembled]
  | append_singleton bs b ih =>
    rw [assembled_concat, getLsbD_shiftIn_lsbFirst hk, ih]
    obtain h | rfl | h := Nat.lt_trichotomy k bs.length
    · rw [List.getD_append _ _ _ _ h]
      simp [h.ne]
    · simp
    · simp [h.ne', h.le, List.getElem?_eq_none, Nat.succ_le_of_lt h]

theorem getLsbD_assembled_msbFirst (bs : List Bool) {k : Nat} (hk : k < 16) :
    (assembled false bs).getLsbD k = (decide (k < bs.length) && bs.getD (bs.length - 1 - k) false) := by
  induction bs using List.reverseRecOn generalizing k with
  | nil => simp [assembled]
  | append_singleton bs b ih =>
    rw [assembled_concat, getLsbD_shiftIn_msbFirst hk]
    cases k with
    | zero => simp
    | succ k =>
      have hplace : bs.length - (k + 1) = bs.length - 1 - k := by omega
      rw [if_neg (Nat.succ_ne_zero k), Nat.add_sub_cancel, ih (by omega), List.length_append, List.length_singleton,
        Nat.add_sub_cancel, hplace]
      by_cases h : k < bs.length
      · rw [List.getD_append _ _ _ _ (by omega)]
        simp [h]
      · simp [h]

/-! ## The loop body (R155, R163 to R166) -/

section
variable {s : State} {i : Nat} (hi : 1 ≤ i)
include hi

theorem spiCsEvents_of_falls (h : Falls s s.snap.spiCh.cs.toNat i) :
    s.spiCsEvents i = [.line (at32 (s.t i)) .cs .csLow] := by
  have hchange : Changes s s.snap.spiCh.cs.toNat i := by simp [Changes, h.1, h.2]
  simp [State.spiCsEvents, (edge_iff hi).2 hchange, (falling_iff hi).2 h, at32]

theorem spiCsEvents_of_rises (h : Rises s s.snap.spiCh.cs.toNat i) :
    s.spiCsEvents i = [.line (at32 (s.t i)) .cs .csHigh] := by
  have hchange : Changes s s.snap.spiCh.cs.toNat i := by simp [Changes, h.1, h.2]
  have hnot : ¬Falls s s.snap.spiCh.cs.toNat i := by simp [Falls, h.1]
  simp [State.spiCsEvents, (edge_iff hi).2 hchange, mt (falling_iff hi).1 hnot, at32]

theorem spiCsEvents_of_level (h : ¬Changes s s.snap.spiCh.cs.toNat i) : s.spiCsEvents i = [] := by
  rw [State.spiCsEvents, if_neg (mt (edge_iff hi).1 h)]

end

section
variable (s : State) {scan : SpiScan}

theorem spiIterate_of_zero (h : scan.next = 0) : s.spiIterate scan = ({ scan with next := 1 }, []) := by
  simp [State.spiIterate, h]

variable (hi : 1 ≤ scan.next)
include hi

theorem spiIterate_of_inactive (h : ¬ActiveEdge s scan.next) :
    s.spiIterate scan = ({ scan with next := scan.next + 1 }, s.spiCsEvents scan.next) := by
  simp [State.spiIterate, Nat.one_le_iff_ne_zero.1 hi, mt (spiActive_iff hi).1 h]

variable (h : ActiveEdge s scan.next)
include h

theorem spiIterate_of_partial (hn : scan.count + 1 ≠ s.snap.spiMode.bits.toNat) :
    s.spiIterate scan =
      ({ scan with
          next := scan.next + 1
          accMosi :=
            shiftIn s.snap.spiMode.lsbFirst scan.accMosi scan.count (s.lineAt s.snap.spiCh.mosi.toNat scan.next)
          accMiso :=
            shiftIn s.snap.spiMode.lsbFirst scan.accMiso scan.count (s.lineAt s.snap.spiCh.miso.toNat scan.next)
          count := scan.count + 1 },
        s.spiCsEvents scan.next) := by
  simp [State.spiIterate, Nat.one_le_iff_ne_zero.1 hi, (spiActive_iff hi).2 h, hn]

theorem spiIterate_of_complete (hn : scan.count + 1 = s.snap.spiMode.bits.toNat) :
    s.spiIterate scan =
      ({ scan with next := scan.next + 1, accMosi := 0#16, accMiso := 0#16, count := 0 },
        s.spiCsEvents scan.next ++
          [.data (at32 (s.t scan.next)) .mosi
            (shiftIn s.snap.spiMode.lsbFirst scan.accMosi scan.count (s.lineAt s.snap.spiCh.mosi.toNat scan.next)),
            .data (at32 (s.t scan.next)) .miso
            (shiftIn s.snap.spiMode.lsbFirst scan.accMiso scan.count
              (s.lineAt s.snap.spiCh.miso.toNat scan.next))]) := by
  simp [State.spiIterate, Nat.one_le_iff_ne_zero.1 hi, (spiActive_iff hi).2 h, hn, at32]

end

/-- The scan goes on by one transition and keeps its end, whatever the transition holds. -/
theorem spiIterate_next (s : State) (scan : SpiScan) :
    (s.spiIterate scan).1.next = scan.next + 1 ∧ (s.spiIterate scan).1.stop = scan.stop := by
  unfold State.spiIterate
  dsimp only
  split_ifs <;> exact ⟨rfl, rfl⟩

/-- The body reads the operands and two entries of the store, and nothing else. -/
theorem spiIterate_congr {s t : State} (hst : SameStore s t) (hsnap : t.snap = s.snap) {scan : SpiScan}
    (h : scan.next < 2 ^ 21) : t.spiIterate scan = s.spiIterate scan := by
  obtain ⟨hv, ht⟩ := hst.entry_eq h
  obtain ⟨hv', -⟩ := hst.entry_eq (i := scan.next - 1) (by omega)
  have level (c : Nat) : t.lineAt c scan.next = s.lineAt c scan.next := by rw [State.lineAt, hv, State.lineAt]
  have before (c : Nat) : t.lineAt c (scan.next - 1) = s.lineAt c (scan.next - 1) := by
    rw [State.lineAt, hv', State.lineAt]
  have edge (c : Nat) : t.edge c scan.next = s.edge c scan.next := by
    rw [State.edge, level, before, State.edge]
  have active : t.spiActive scan.next = s.spiActive scan.next := by
    rw [State.spiActive, State.rising, State.falling, hsnap, edge, level]
    rfl
  have events : t.spiCsEvents scan.next = s.spiCsEvents scan.next := by
    rw [State.spiCsEvents, State.falling, hsnap, edge, level, ht]
    rfl
  unfold State.spiIterate
  dsimp only
  rw [active, events, hsnap, ht, level, level]

/-- An event that the SPI decoder may emit at transition i: it carries the time of i and is no error. -/
structure SpiEventAt (s : State) (i : Nat) (e : Event) : Prop where
  time : e.time = at32 (s.t i)
  noError : infoIsError e.info = false

theorem spiEventAt_data (s : State) (i : Nat) (r : Role) (x : BitVec 16) : SpiEventAt s i (.data (at32 (s.t i)) r x) :=
  ⟨rfl, infoIsError_data _ _ _⟩

theorem spiEventAt_of_mem_spiCsEvents {s : State} {i : Nat} {e : Event} (h : e ∈ s.spiCsEvents i) :
    SpiEventAt s i e := by
  have low : SpiEventAt s i (.line (at32 (s.t i)) .cs .csLow) :=
    ⟨rfl, Bool.eq_false_iff.2 (by simp [infoIsError_line_iff])⟩
  have high : SpiEventAt s i (.line (at32 (s.t i)) .cs .csHigh) :=
    ⟨rfl, Bool.eq_false_iff.2 (by simp [infoIsError_line_iff])⟩
  unfold State.spiCsEvents at h
  split_ifs at h
  · exact List.mem_singleton.1 h ▸ low
  · exact List.mem_singleton.1 h ▸ high
  · simp at h

theorem spiEventAt_of_mem_spiIterate {s : State} {scan : SpiScan} {e : Event} (h : e ∈ (s.spiIterate scan).2) :
    SpiEventAt s scan.next e := by
  obtain hzero | hi := Nat.eq_zero_or_pos scan.next
  · simp [spiIterate_of_zero s hzero] at h
  · by_cases ha : ActiveEdge s scan.next
    · by_cases hn : scan.count + 1 = s.snap.spiMode.bits.toNat
      · rw [spiIterate_of_complete s hi ha hn, List.mem_append] at h
        obtain hcs | hdata := h
        · exact spiEventAt_of_mem_spiCsEvents hcs
        · simp only [List.mem_cons, List.not_mem_nil, or_false] at hdata
          obtain rfl | rfl := hdata <;> exact spiEventAt_data s _ _ _
      · rw [spiIterate_of_partial s hi ha hn] at h
        exact spiEventAt_of_mem_spiCsEvents h
    · rw [spiIterate_of_inactive s hi ha] at h
      exact spiEventAt_of_mem_spiCsEvents h

/-! ## The output of the pass (R155, R169) -/

theorem spiEvents_congr {s t : State} (hst : SameStore s t) (hsnap : t.snap = s.snap) (n : Nat) {scan : SpiScan}
    (h : scan.next + n ≤ 2 ^ 21) : spiEvents t n scan = spiEvents s n scan := by
  induction n generalizing scan with
  | zero => rfl
  | succ n ih =>
    obtain ⟨hnext, -⟩ := spiIterate_next s scan
    rw [spiEvents, spiEvents, spiIterate_congr hst hsnap (by omega), ih (by omega)]

/-- Every event of the pass belongs to one of its transitions. -/
theorem spiEventAt_of_mem_spiEvents {s : State} {n : Nat} {scan : SpiScan} {e : Event} (h : e ∈ spiEvents s n scan) :
    ∃ i, scan.next ≤ i ∧ i < scan.next + n ∧ SpiEventAt s i e := by
  induction n generalizing scan with
  | zero => simp [spiEvents] at h
  | succ n ih =>
    obtain ⟨hnext, -⟩ := spiIterate_next s scan
    rw [spiEvents, List.mem_append] at h
    obtain hnow | hlater := h
    · exact ⟨scan.next, le_rfl, by omega, spiEventAt_of_mem_spiIterate hnow⟩
    · obtain ⟨i, hle, hlt, he⟩ := ih hlater
      exact ⟨i, by omega, by omega, he⟩

theorem toNat_at32_t (s : State) (i : Nat) : (at32 (s.t i)).toNat = s.t i := by
  rw [State.t, ← eq_at32 rfl]

/-- Events of the same or of rising transitions have rising times. -/
theorem SpiEventAt.time_le {s : State} (h : StoreInv s) {i j : Nat} {e f : Event} (he : SpiEventAt s i e)
    (hf : SpiEventAt s j f) (hij : i ≤ j) (hj : j < s.nTrans.toNat) : e.record.1.toNat ≤ f.record.1.toNat := by
  rw [Event.record, Event.record, he.time, hf.time, toNat_at32_t, toNat_at32_t]
  obtain rfl | hlt := hij.eq_or_lt
  · exact le_rfl
  · exact (t_lt_t h hlt hj).le

/-- The pass emits in time order, since it visits the transitions in order (R169). -/
theorem spiEvents_pairwise_time {s : State} (h : StoreInv s) (n : Nat) {scan : SpiScan}
    (hn : ∀ i, scan.next ≤ i → i < scan.next + n → i < s.nTrans.toNat) :
    (spiEvents s n scan).Pairwise (fun e f => e.record.1.toNat ≤ f.record.1.toNat) := by
  induction n generalizing scan with
  | zero => exact List.Pairwise.nil
  | succ n ih =>
    obtain ⟨hnext, -⟩ := spiIterate_next s scan
    have hnow : scan.next < s.nTrans.toNat := hn _ le_rfl (by omega)
    rw [spiEvents, List.pairwise_append]
    refine ⟨?_, ih fun i h1 h2 => hn i (by omega) (by omega), fun e he f hf => ?_⟩
    · exact List.pairwise_of_forall_mem_list fun e he f hf =>
        (spiEventAt_of_mem_spiIterate he).time_le h (spiEventAt_of_mem_spiIterate hf) le_rfl hnow
    · obtain ⟨j, hle, hlt, hj⟩ := spiEventAt_of_mem_spiEvents hf
      exact (spiEventAt_of_mem_spiIterate he).time_le h hj (by omega) (hn j (by omega) (by omega))

/-- Fewer transitions emit a first part of what more of them emit (R168, R169). -/
theorem spiEvents_isPrefix (s : State) (n m : Nat) (scan : SpiScan) :
    spiEvents s n scan <+: spiEvents s (n + m) scan := by
  induction n generalizing scan with
  | zero => exact List.nil_prefix
  | succ n ih =>
    rw [Nat.succ_add, spiEvents, spiEvents, List.prefix_append_right_inj]
    exact ih _

/-! ## The steps (R218, R219, R221) -/

theorem exec_decodeSpi_of_sequencer {s : State} (h : s.turn = .sequencer) : exec .decodeSpi s = .next s.runSpi :=
  commandStep_of_sequencer h _ _

theorem runSpi_of_scanAt {s : State} {scan : SpiScan} (h : SpiScanAt s scan) : s.runSpi = s.spiStep scan := by
  obtain hseq | ⟨⟨c, hseq⟩, hv, r, hr, rfl⟩ := h
  · simp [State.runSpi, hseq]
  · simp [State.runSpi, hseq, State.spiBegin, hv, hr]

theorem runSpi_of_closing {s : State} (h : s.seq = .spiClosing) : s.runSpi = s.completeDecode := by
  simp [State.runSpi, h]

theorem runSpi_of_open {s : State} {c : Command} (h : s.seq = .pending c) (hv : s.storeValid = false) :
    s.runSpi = completed s .noStore := by
  simp only [State.runSpi, h, State.spiBegin, hv]
  rfl

theorem runSpi_of_no_start {s : State} {c : Command} (h : s.seq = .pending c) (hv : s.storeValid = true)
    (hr : s.spiRegion = none) : s.runSpi = completed s .noStart := by
  simp only [State.runSpi, h, State.spiBegin, hv, hr]
  rfl

theorem exec_decodeSpi_of_no_start {s : State} {c : Command} (ht : s.turn = .sequencer) (h : s.seq = .pending c)
    (hv : s.storeValid = true) (hc : s.snap.cursorEn = false) (htrig : s.snap.trigValid = false)
    (hnone : ∀ i, 1 ≤ i → i < s.nv → ¬Falls s s.snap.spiCh.cs.toNat i) :
    exec .decodeSpi s = .next (completed s .noStart) := by
  rw [exec_decodeSpi_of_sequencer ht, runSpi_of_no_start h hv (spiRegion_of_no_start hc hnone htrig)]

theorem exec_decodeUart_of_open {s : State} {c : Command} (ht : s.turn = .sequencer) (h : s.seq = .pending c)
    (hv : s.storeValid = false) : exec .decodeUart s = .next (completed s .noStore) := by
  have hrun : s.runUart = completed s .noStore := by
    simp only [State.runUart, h, State.uartBegin, hv]
    rfl
  rw [← hrun]
  exact commandStep_of_sequencer ht _ _

section
variable {s : State} {scan : SpiScan}

theorem spiStep_of_end (h : scan.stop ≤ scan.next) : s.spiStep scan = s.completeDecode := if_pos h

theorem spiStep_of_cancel (h : scan.next < scan.stop) (hc : s.cancelReq = true) :
    s.spiStep scan = { s with cancelled := true, seq := .spiClosing } := by
  rw [State.spiStep, if_neg (Nat.not_le.2 h), if_pos hc]

/-- An iteration emits its events; the scan goes on unless the event memory overflows (R221). -/
theorem spiStep_of_iteration (h : scan.next < scan.stop) (hc : s.cancelReq = false) :
    s.spiStep scan =
      { s.emitAll (s.spiIterate scan).2 with
        seq := if (s.emitAll (s.spiIterate scan).2).evtOvf then .spiClosing else .spi (s.spiIterate scan).1 } := by
  rw [State.spiStep, if_neg (Nat.not_le.2 h), if_neg (by simp [hc])]
  dsimp only [State.spiEmit]
  split <;> rfl

end

/-- The completion of a decode, field by field (R173, R222, R233). -/
theorem completeDecode_eq (s : State) :
    s.completeDecode =
      { completed s .ok with
        symCount := BitVec.ofNat 32 (s.records.countP (fun q => !infoIsLine q.2))
        errCount := BitVec.ofNat 32 (s.records.countP (fun q => infoIsError q.2))
        progress := if s.cancelled = true ∨ s.evtOvf = true then s.progress else 100#7 } := by
  simp only [State.completeDecode, State.finalCounts, Bool.or_eq_true]
  rfl

/-! ## The whole decode (R155, R168, R221) -/

/-- From `s` on, a decode has emitted `es` and completed after `k` steps, at most `n` of them without a host; `r` is the
run state that it ends with. -/
structure CompletesIn (s : State) (es : List Event) (n k : Nat) (r : RunState) : Prop where
  reaches : Reaches k s ((s.emitAll es).completeDecode.withRun r)
  idle : r.seq = .idle
  sequencerTurn : r.turn = .sequencer
  progress : s.cancelled = false → (s.emitAll es).evtOvf = false → r.progress = 100#7
  alone : s.host = [] → k ≤ n ∧ r.host = [] ∧ r.readData = s.readData ∧ r.busErr = s.busErr

/-- A decode whose next step is its completion, and for which `es` holds nothing that is still to be written. -/
theorem completesIn_of_completeDecode {s : State} (h : Watched .decodeSpi s)
    (hrun : ∀ r : RunState, r.seq = s.seq → (s.withRun r).runSpi = (s.withRun r).completeDecode) {es : List Event}
    (hes : s.emitAll es = s) (n : Nat) : ∃ k r, CompletesIn s es (n + 1) k r := by
  obtain ⟨j, r, hr, hturn, hj, hreach⟩ := reaches_sequencer_turn h
  have hstep : exec .decodeSpi (s.withRun r) = .next (s.withRun r).completeDecode := by
    rw [exec_decodeSpi_of_sequencer hturn, hrun r hr.seq]
  refine ⟨j + 1, (s.withRun r).completeDecode.runState, ?_, rfl, hturn, fun hc ho => ?_, fun hs => ?_⟩
  · rw [hes]
    exact hreach _ hstep
  · rw [hes] at ho
    show (if s.cancelled || s.evtOvf then r.progress else 100#7) = 100#7
    simp [hc, ho]
  · obtain ⟨hhost, hread, herr⟩ := hr.alone hs
    have hnow := hj hs
    exact ⟨by omega, hhost, hread, herr⟩

/-- A step that emits `es`, and then a decode that has `fs` still to emit. -/
theorem CompletesIn.after_step {s : State} {es fs : List Event} {n j k : Nat} {q r : RunState}
    (hstep : Reaches (j + 1) s ((s.emitAll es).withRun q))
    (halone : s.host = [] → j = 0 ∧ q.host = [] ∧ q.readData = s.readData ∧ q.busErr = s.busErr)
    (h : CompletesIn ((s.emitAll es).withRun q) fs n k r) : CompletesIn s (es ++ fs) (n + 1) (j + 1 + k) r := by
  have hall : ((s.emitAll es).withRun q).emitAll fs = (s.emitAll (es ++ fs)).withRun q := by
    rw [emitAll_withRun, emitAll_append]
  obtain ⟨-, hcancelled, -⟩ := emitAll_frame s es
  obtain ⟨hreach, hidle, hturn, hprogress, hdone⟩ := h
  rw [hall] at hreach hprogress
  refine ⟨reaches_add hstep hreach, hidle, hturn, fun hc => hprogress (hcancelled.trans hc), fun hs => ?_⟩
  obtain ⟨hj, hhost, hread, herr⟩ := halone hs
  obtain ⟨hk, hhost', hread', herr'⟩ := hdone hhost
  exact ⟨by omega, hhost', hread'.trans hread, herr'.trans herr⟩

/-- The store stays as events are emitted. -/
theorem sameStore_emitted {s : State} (h : s.mem.wf = true) (es : List Event) (r : RunState) :
    SameStore s ((s.emitAll es).withRun r) := { sameStore_emitAll h es with }

/-- The snapshot stays as events are emitted. -/
theorem snap_emitted (s : State) (es : List Event) (r : RunState) : ((s.emitAll es).withRun r).snap = s.snap := by
  obtain ⟨_, _, _, e⟩ := emitAll_shape s es
  rw [e]
  rfl

/-- A watched SPI decode that has met no stop, with `scan` as the scan state of its next step. -/
structure SpiDecoding (s : State) (scan : SpiScan) : Prop extends Watched .decodeSpi s where
  scanAt : SpiScanAt s scan
  notRequested : s.cancelReq = false
  notOverflowed : s.evtOvf = false
  memory : s.mem.wf = true
  inWindow : scan.stop ≤ 2 ^ 21

theorem scanAt_withRun {s : State} {scan : SpiScan} {r : RunState} (h : SpiScanAt s scan) (hr : r.seq = s.seq) :
    SpiScanAt (s.withRun r) scan := by
  obtain hseq | ⟨⟨c, hseq⟩, hrest⟩ := h
  · exact .inl (hr.trans hseq)
  · exact .inr ⟨⟨c, hr.trans hseq⟩, hrest⟩

/-- A command that emits is watched on, with the sequencer still in it. -/
theorem Watched.emitAll_withRun {c : Command} {s : State} (h : Watched c s) (es : List Event) {r : RunState}
    (hr : OnlyWatched (s.withRun r)) (hrunning : r.seq.command = some c) :
    Watched c ((s.emitAll es).withRun r) := by
  obtain ⟨_, _, _, e⟩ := emitAll_shape s es
  rw [e]
  exact { h with onlyWatched := hr, running := hrunning }

/-- An iteration that leaves room keeps the decode going at the next transition. -/
theorem SpiDecoding.next {s : State} {scan : SpiScan} (h : SpiDecoding s scan) {r : RunState}
    (hr : OnlyWatched (s.withRun r)) (hseq : r.seq = .spi (s.spiIterate scan).1)
    (ho : (s.emitAll (s.spiIterate scan).2).evtOvf = false) :
    SpiDecoding ((s.emitAll (s.spiIterate scan).2).withRun r) (s.spiIterate scan).1 where
  toWatched := h.toWatched.emitAll_withRun _ hr (by rw [hseq]; rfl)
  scanAt := .inl hseq
  notRequested := by
    obtain ⟨_, _, _, e⟩ := emitAll_shape s (s.spiIterate scan).2
    rw [e]
    exact h.notRequested
  notOverflowed := ho
  memory := emitAll_wf h.memory _
  inWindow := (spiIterate_next s scan).2.trans_le h.inWindow

/-- The step of one iteration: its events are emitted, and the scan goes on unless the event memory overflows (R221). -/
theorem SpiDecoding.iterates {s : State} {scan : SpiScan} (h : SpiDecoding s scan) (hlt : scan.next < scan.stop) :
    ∃ j q, Reaches (j + 1) s ((s.emitAll (s.spiIterate scan).2).withRun q) ∧
      q.seq = (if (s.emitAll (s.spiIterate scan).2).evtOvf then .spiClosing else .spi (s.spiIterate scan).1) ∧
      OnlyWatched (s.withRun q) ∧
      (s.host = [] → j = 0 ∧ q.host = [] ∧ q.readData = s.readData ∧ q.busErr = s.busErr) := by
  obtain ⟨j, r, hr, hturn, hj, hreach⟩ := reaches_sequencer_turn h.toWatched
  refine ⟨j, { r with seq := _ }, hreach _ ?_, rfl, hr.onlyWatched, fun hs => ⟨hj hs, hr.alone hs⟩⟩
  refine (exec_decodeSpi_of_sequencer (s := s.withRun r) hturn).trans (congrArg _ ?_)
  rw [runSpi_of_scanAt (scanAt_withRun h.scanAt hr.seq),
    spiStep_of_iteration (s := s.withRun r) hlt h.notRequested]
  show { (s.withRun r).emitAll (s.spiIterate scan).2 with
    seq := if ((s.withRun r).emitAll (s.spiIterate scan).2).evtOvf then .spiClosing
      else .spi (s.spiIterate scan).1 } = _
  rw [emitAll_withRun]
  rfl

/-- A watched SPI decode emits the events of every transition left and completes, as far as the event memory takes
them. -/
theorem spiDecoding_completes (n : Nat) {s : State} {scan : SpiScan} (h : SpiDecoding s scan)
    (hn : n = scan.stop - scan.next) : ∃ k r, CompletesIn s (spiEvents s n scan) (n + 1) k r := by
  induction n generalizing s scan with
  | zero =>
    refine completesIn_of_completeDecode h.toWatched (fun r hr => ?_) rfl 0
    rw [runSpi_of_scanAt (scanAt_withRun h.scanAt hr), spiStep_of_end (by omega)]
  | succ n ih =>
    obtain ⟨j, q, hstep, hseq, hwatch, halone⟩ := h.iterates (by omega)
    obtain ⟨hnext, hstop⟩ := spiIterate_next s scan
    have hwindow := h.inWindow
    have hrest : ∃ k p, CompletesIn ((s.emitAll (s.spiIterate scan).2).withRun q)
        (spiEvents s n (s.spiIterate scan).1) (n + 1) k p := by
      cases ho : (s.emitAll (s.spiIterate scan).2).evtOvf with
      | true =>
        rw [ho, if_pos rfl] at hseq
        exact completesIn_of_completeDecode (h.toWatched.emitAll_withRun _ hwatch (by rw [hseq]; rfl))
          (fun p hp => runSpi_of_closing (hp.trans hseq)) (emitAll_of_overflowed (by exact ho) _) n
      | false =>
        rw [ho, if_neg Bool.false_ne_true] at hseq
        rw [← spiEvents_congr (sameStore_emitted h.memory _ q) (snap_emitted s _ q) n (by omega)]
        exact ih (h.next hwatch hseq ho) (by omega)
    obtain ⟨k, p, hdone⟩ := hrest
    exact ⟨_, p, CompletesIn.after_step hstep halone hdone⟩

/-- What an SPI decode leaves is what it was accepted with, but for the fields that `decoded` lists. -/
theorem eq_decoded_of_completed {s t : State} {es : List Event} {r : RunState}
    (ht : t = ((s.accept .decodeSpi).emitAll es).completeDecode.withRun r) (hidle : r.seq = .idle)
    (hturn : r.turn = .sequencer) : t = { decoded s t with noBaudRx := false, noBaudTx := false } := by
  obtain ⟨_, _, _, e⟩ := emitAll_shape (s.accept .decodeSpi) es
  obtain ⟨seq, _, _, _, _, turn, _⟩ := r
  obtain rfl : seq = .idle := hidle
  obtain rfl : turn = .sequencer := hturn
  rw [ht, e]
  rfl

/-- An accepted SPI decode with a store and a start point is ready for its first transition. -/
theorem spiDecoding_of_accepted {s : State} {r : SpiRegion} (h : ReadyForCommand s) (hv : s.storeValid = true)
    (hr : (s.accept .decodeSpi).spiRegion = some r) :
    SpiDecoding (s.accept .decodeSpi)
      { next := r.start, stop := r.stop, accMosi := 0#16, accMiso := 0#16, count := 0 } where
  platform := h.noReset.platform
  outOfReset := h.noReset.outOfReset
  onlyWatched := h.onlyWatched
  running := rfl
  notDone := rfl
  scanAt := .inr ⟨⟨.decodeSpi, rfl⟩, hv, r, hr, rfl⟩
  notRequested := rfl
  notOverflowed := rfl
  memory := h.inv.memory
  inWindow := by
    have hstore : StoreInv (s.accept .decodeSpi) := { h.inv.store hv with }
    calc r.stop ≤ (s.accept .decodeSpi).nv := spiRegion_stop_le_nv hstore hstore.cursorB hr
      _ ≤ s.nTrans.toNat := nv_le_nTrans hstore
      _ ≤ 2 ^ 21 := nTrans_le_window h.inv.fields

/-- Among the records that a memory takes of an SPI output there is no error (R173). -/
theorem countP_error_taken_spiEvents (cap : Nat) (s : State) (n : Nat) (scan : SpiScan) :
    (taken cap (spiEvents s n scan)).countP (fun q => infoIsError q.2) = 0 := by
  refine List.countP_eq_zero.2 fun q hq => ?_
  obtain ⟨e, he, rfl⟩ := List.mem_map.1 (List.mem_of_mem_take hq)
  obtain ⟨_, -, -, hat⟩ := spiEventAt_of_mem_spiEvents he
  exact Bool.eq_false_iff.1 hat.noError

/-- A count of records that a memory takes is a number of 32 bits. -/
theorem toNat_countP_taken (cap : Word) (es : List Event) (p : Record → Bool) :
    (BitVec.ofNat 32 ((taken cap.toNat es).countP p)).toNat = (taken cap.toNat es).countP p := by
  have hle : (taken cap.toNat es).countP p ≤ cap.toNat := List.countP_le_length.trans (List.length_take_le _ _)
  rw [BitVec.toNat_ofNat, Nat.mod_eq_of_lt (hle.trans_lt cap.isLt)]

end Sys2Proof.Machine
end

section
/-! CERTIFICATE. The statements about the SPI decoder (spec/42_spi.md). -/

namespace Sys2Proof.Certificates

open Sys2Proof.Machine Sys2Proof.Safety Sys2Proof.Statement

/-- Settles O38: from the acceptance on, `spiDecoding_completes` by induction on the transitions left; what the records
and counts are then is said by `emittedInto_emitAll`. -/
theorem spiDecodeWritesItsWholeOutput : Obligations.SpiDecodeWritesItsWholeOutput := by
  intro s r h hv hr out
  set a := s.accept .decodeSpi
  have hdec := spiDecoding_of_accepted h hv hr
  obtain ⟨k, q, hreach, hidle, hturn, hprogress, halone⟩ := spiDecoding_completes (r.stop - r.start) hdec rfl
  have hemit : EmittedInto a (a.emitAll out) out := emittedInto_emitAll hdec.memory rfl rfl out
  obtain ⟨-, hcancelled, -⟩ := emitAll_frame a out
  refine ⟨a, k, (a.emitAll out).completeDecode.withRun q, ?accepted, hreach, ?notBusy, rfl, rfl, hcancelled,
    hemit.overflow, hemit.records, ?symbols, ?errors, hprogress rfl, eq_decoded_of_completed rfl hidle hturn, halone,
    hemit.frame⟩
  case accepted =>
    refine (exec_command_of_host h.hostTurn .decodeSpi).trans ?_
    rw [State.writeCommand, if_neg (by simp [h.idle])]
  case notBusy =>
    show q.seq.command.isSome = false
    rw [hidle]
    rfl
  case symbols =>
    show (BitVec.ofNat 32 ((a.emitAll out).records.countP fun q => !infoIsLine q.2)).toNat = _
    rw [hemit.records]
    exact toNat_countP_taken s.eMax out _
  case errors =>
    show BitVec.ofNat 32 ((a.emitAll out).records.countP fun q => infoIsError q.2) = 0#32
    rw [hemit.records]
    exact congrArg _ (countP_error_taken_spiEvents _ a _ _)

/-- Settles O35: one clause for each bound of the region, `spiRegion_stop_le_nv` for its end. -/
theorem spiRegionFollowsTheBound : Obligations.SpiRegionFollowsTheBound := by
  intro s h hb
  have index {t i : Nat} (hi : IsSampleIndex s t i) : s.sampleIndexAt t = i :=
    isSampleIndex_unique (isSampleIndex_sampleIndexAt h t) hi
  refine ⟨fun hc a b hA hB => ?_, fun hc i => spiRegion_of_falling hc, fun hc hnone =>
    ⟨fun htrig a hA => ?_, fun htrig => ⟨spiRegion_of_no_start hc hnone htrig, fun c ht hseq hv => ?_⟩⟩,
    fun r => spiRegion_stop_le_nv h hb⟩
  · rw [spiRegion_of_cursors hc, index hA, index hB]
  · rw [spiRegion_of_trigger hc hnone htrig, State.abs, index hA]
  · exact exec_decodeSpi_of_no_start ht hseq hv hc htrig hnone

/-- Settles O36: one equation of the body for each case of the transition (`spiIterate_of_zero` and the three after
it). -/
theorem spiLoopBodySamplesTheEdge : Obligations.SpiLoopBodySamplesTheEdge := by
  refine ⟨fun s scan => spiIterate_of_zero s, fun s scan hi => ?_⟩
  obtain ⟨hnext, hstop⟩ := spiIterate_next s scan
  refine ⟨s.spiCsEvents scan.next, spiCsEvents_of_falls hi, spiCsEvents_of_rises hi, spiCsEvents_of_level hi, hnext,
    hstop, fun h => ?_, fun h hn => ?_, fun h hn => ?_⟩
  · rw [spiIterate_of_inactive s hi h]
    exact ⟨rfl, rfl⟩
  · rw [spiIterate_of_partial s hi h hn]
    exact ⟨rfl, rfl⟩
  · rw [spiIterate_of_complete s hi h hn]
    exact ⟨rfl, rfl⟩

/-- Settles O37: by induction on the list from its end, where the next bit is sampled. -/
theorem sampledBitsEndInTheirPlaces : Obligations.SampledBitsEndInTheirPlaces :=
  fun bs _ _ hk => ⟨getLsbD_assembled_lsbFirst bs hk, getLsbD_assembled_msbFirst bs hk⟩

/-- Settles O39: by induction on the transitions of the pass, for the order and for the first part. -/
theorem spiOutputIsTimeOrdered : Obligations.SpiOutputIsTimeOrdered := by
  refine fun s h => ⟨fun r hr => ?_, fun scan n m => spiEvents_isPrefix s n m scan⟩
  rw [TimeOrdered, List.pairwise_map]
  refine spiEvents_pairwise_time h _ fun i hstart hend => ?_
  dsimp only at hstart hend
  omega

/-- Settles O15: the snapshot of the acceptance, channel by channel (`toNat_clampChannel`, `usedLines_snapshot`). -/
theorem snapshotClampsTheChannels : Obligations.SnapshotClampsTheChannels :=
  fun s _ => ⟨fun c => accept_snap c s, toNat_clampChannel _ _, toNat_clampChannel _ _, toNat_clampChannel _ _,
    toNat_clampChannel _ _, usedLines_snapshot s, rfl, rfl, rfl, rfl, rfl, rfl, rfl, rfl⟩

/-- Settles O40: each step is one branch of the scan, the completion by `completeDecode_eq`. -/
theorem spiCancelAndCompletionSteps : Obligations.SpiCancelAndCompletionSteps := by
  intro s ht
  rw [exec_decodeSpi_of_sequencer ht]
  refine ⟨fun scan hscan hlt hc => ?_, fun hend => ?_⟩
  · rw [runSpi_of_scanAt hscan, spiStep_of_cancel hlt hc]
  · rw [← completeDecode_eq]
    obtain hseq | ⟨scan, hscan, hle⟩ := hend
    · rw [runSpi_of_closing hseq]
    · rw [runSpi_of_scanAt hscan, spiStep_of_end hle]

/-- Settles O41: the checks at the start of either rule. -/
theorem decodesReportTheirErrors : Obligations.DecodesReportTheirErrors := by
  refine fun s c ht hseq => ⟨fun hv => ⟨?_, exec_decodeUart_of_open ht hseq hv⟩, fun hv hc htrig hnone => ?_⟩
  · rw [exec_decodeSpi_of_sequencer ht, runSpi_of_open hseq hv]
  · exact exec_decodeSpi_of_no_start ht hseq hv hc htrig hnone

end Sys2Proof.Certificates
end

section
/-! SUPPORT. The UART decoder, function by function (spec/43_uart.md): the region, the start edge and the frame of a data
line, the transitions of a control line, the merge, and what one step of the decode does. -/

namespace Sys2Proof.Machine

open Sys2Proof.Safety Sys2Proof.Statement

/-! ## Searches below NV (R178, R185) -/

section
variable {s : State} {p : Nat → Bool} {P : Nat → Prop} (hp : ∀ j, 1 ≤ j → (p j = true ↔ P j))
include hp

/-- The first transition below NV that is found is the least one with the property. -/
theorem find_innerIndices_of_leastIndex {i : Nat} (h : LeastIndex s.nv P i) : s.innerIndices.find? p = some i := by
  obtain ⟨h1, hnv, hi, hleast⟩ := h
  refine List.find?_range'_eq_some.2 ⟨(hp i h1).2 hi, mem_innerIndices.2 ⟨h1, hnv⟩, fun j hj hji => ?_⟩
  rw [Bool.not_eq_true', Bool.eq_false_iff, Ne, hp j hj]
  exact hleast j hj hji

theorem find_innerIndices_eq_none (h : ∀ j, 1 ≤ j → j < s.nv → ¬P j) : s.innerIndices.find? p = none := by
  refine List.find?_eq_none.2 fun j hj => ?_
  obtain ⟨h1, hnv⟩ := mem_innerIndices.1 hj
  rw [hp j h1]
  exact h j h1 hnv

end

/-! ## The region (R176 to R178) -/

theorem anyLineEdge_iff {s : State} {i : Nat} (hi : 1 ≤ i) :
    s.anyLineEdge i = true ↔ ∃ l ∈ s.snap.usedLines, Changes s l.2 i := by
  simp only [State.anyLineEdge, List.any_eq_true, edge_iff hi]

section
variable {s : State}

theorem uartRegion_of_cursors (h : s.snap.cursorEn = true) :
    s.uartRegion = { t0 := s.snap.cursorA.toNat, t1 := s.snap.cursorB.toNat + 1 } := if_pos h

variable (hc : s.snap.cursorEn = false)
include hc

theorem uartRegion_of_trigger (h : s.snap.trigValid = true) :
    s.uartRegion = { t0 := min s.snap.trigger.toNat (s.absLen.toNat - 1) - 10, t1 := s.absLen.toNat } := by
  simp [State.uartRegion, hc, h, State.abs, Config.uartBackoff]

variable (ht : s.snap.trigValid = false)
include ht

theorem uartRegion_of_edge {i : Nat}
    (h : LeastIndex s.nv (fun j => ∃ l ∈ s.snap.usedLines, Changes s l.2 j) i) :
    s.uartRegion = { t0 := s.t i, t1 := s.absLen.toNat } := by
  have hfind := find_innerIndices_of_leastIndex (fun j hj => anyLineEdge_iff hj) h
  simp [State.uartRegion, hc, ht, hfind, State.abs]

theorem uartRegion_of_no_edge (h : ∀ i, 1 ≤ i → i < s.nv → ∀ l ∈ s.snap.usedLines, ¬Changes s l.2 i) :
    s.uartRegion = { t0 := 0, t1 := s.absLen.toNat } := by
  have hfind : s.innerIndices.find? s.anyLineEdge = none :=
    find_innerIndices_eq_none (fun j hj => anyLineEdge_iff hj) fun j h1 hnv ⟨l, hl, hch⟩ => h j h1 hnv l hl hch
  simp [State.uartRegion, hc, ht, hfind, State.abs]

end

/-! ## The shape of a frame (R181, R184, R190, R193) -/

theorem Parity.bits_eq (p : Parity) : p.bits = if p = .none then 0 else 1 := by
  cases p <;> rfl

theorem Parity.bits_eq_one_iff {p : Parity} : p.bits = 1 ↔ p ≠ .none := by
  cases p <;> decide

theorem StopBits.halves_eq (b : StopBits) : b.halves = if b = .one then 2 else if b = .oneAndHalf then 3 else 4 := by
  cases b <;> rfl

section
variable {c : UartCfg} (bd s0 : Nat)

theorem stopPoints_of_one (h : c.stop = .one) : c.stopPoints bd s0 = [s0 + (c.payloadBits + 1) * bd] := by
  simp only [UartCfg.stopPoints, h]

theorem stopPoints_of_oneAndHalf (h : c.stop = .oneAndHalf) :
    c.stopPoints bd s0 = [s0 + (c.payloadBits + 1) * bd, s0 + (c.payloadBits + 1) * bd + bd / 2] := by
  simp only [UartCfg.stopPoints, h]

theorem stopPoints_of_two (h : c.stop = .two) :
    c.stopPoints bd s0 = [s0 + (c.payloadBits + 1) * bd, s0 + (c.payloadBits + 1) * bd + bd] := by
  simp only [UartCfg.stopPoints, h]

theorem stopPoints_getLast? (c : UartCfg) : (c.stopPoints bd s0).getLast? = some (c.lastStop bd s0) := by
  unfold UartCfg.stopPoints UartCfg.lastStop
  cases c.stop <;> rfl

/-- No stop point comes before the first one. -/
theorem base_le_of_mem_stopPoints {ts : Nat} (h : ts ∈ c.stopPoints bd s0) :
    s0 + (c.payloadBits + 1) * bd ≤ ts := by
  unfold UartCfg.stopPoints at h
  cases hstop : c.stop <;> simp only [hstop, List.mem_cons, List.not_mem_nil, or_false] at h <;> omega

/-- The last stop point does not come before the start sample. -/
theorem le_lastStop (c : UartCfg) : s0 ≤ c.lastStop bd s0 :=
  (Nat.le_add_right s0 _).trans
    (base_le_of_mem_stopPoints bd s0 (List.mem_of_getLast? (stopPoints_getLast? bd s0 c)))

theorem stopPoints_pairwise_lt (hbd : 1 ≤ bd) (h : ¬(bd = 1 ∧ c.stop = .oneAndHalf)) :
    (c.stopPoints bd s0).Pairwise (· < ·) := by
  cases hstop : c.stop with
  | one => simp [stopPoints_of_one bd s0 hstop]
  | oneAndHalf =>
    have hne : bd ≠ 1 := fun e => h ⟨e, hstop⟩
    rw [stopPoints_of_oneAndHalf bd s0 hstop, List.pairwise_pair]
    omega
  | two =>
    rw [stopPoints_of_two bd s0 hstop, List.pairwise_pair]
    omega

end

/-! ## The data word and the parity bit (R187, R189) -/

/-- Setting the bits 0 to `d - 1` one after the other. -/
theorem getLsbD_foldl_bits (f : Nat → Bool) (d : Nat) {k : Nat} (hk : k < 16) :
    ((List.range' 1 d).foldl
        (fun x j => x ||| (BitVec.zeroExtend 16 (flagBit (f j)) <<< (j - 1))) 0#16).getLsbD k =
      (decide (k < d) && f (k + 1)) := by
  induction d with
  | zero => simp
  | succ d ih =>
    rw [List.range'_1_concat, List.foldl_concat]
    refine (getLsbD_shiftIn_lsbFirst hk _ _ _).trans ?_
    rw [ih, Nat.add_sub_cancel_left, Nat.add_comm 1 d]
    obtain h | rfl | h := Nat.lt_trichotomy k d
    · simp [h, h.ne, Nat.lt_succ_of_lt h]
    · simp
    · simp [h.not_gt, h.ne', Nat.not_lt.2 (Nat.succ_le_of_lt h)]

theorem getLsbD_dataWord (s : State) (ch bd s0 : Nat) {k : Nat} (hk : k < 16) :
    (s.dataWord ch bd s0).getLsbD k =
      (decide (k < s.snap.uartCfg.dataBits.toNat) && s.logical ch (s0 + (k + 1) * bd)) :=
  getLsbD_foldl_bits (fun j => s.logical ch (s0 + j * bd)) _ hk

theorem parityBit_even_iff (d : Nat) (x : BitVec 16) : parityBit .even d x = true ↔ onesBelow d x % 2 = 1 := by
  simp [parityBit]

theorem parityBit_odd_iff (d : Nat) (x : BitVec 16) : parityBit .odd d x = true ↔ onesBelow d x % 2 = 0 := by
  simp [parityBit]

/-! ## The events of a frame (R188, R191) -/

section
variable {s : State} (role : Role) {ch bd s0 : Nat} {x : BitVec 16}

theorem parityEvents_of_none (h : s.snap.uartCfg.parity = .none) : s.parityEvents role ch bd s0 x = [] := by
  simp [State.parityEvents, h, Parity.bits]

theorem parityEvents_of_match
    (hm : s.logical ch (s0 + (s.snap.uartCfg.dataBits.toNat + 1) * bd) =
      parityBit s.snap.uartCfg.parity s.snap.uartCfg.dataBits.toNat x) : s.parityEvents role ch bd s0 x = [] := by
  simp [State.parityEvents, hm]

theorem parityEvents_of_mismatch (h : s.snap.uartCfg.parity ≠ .none)
    (hm : s.logical ch (s0 + (s.snap.uartCfg.dataBits.toNat + 1) * bd) ≠
      parityBit s.snap.uartCfg.parity s.snap.uartCfg.dataBits.toNat x) :
    s.parityEvents role ch bd s0 x =
      [.line (at32 (s0 + (s.snap.uartCfg.dataBits.toNat + 1) * bd)) role .parityErr] := by
  simp [State.parityEvents, Parity.bits_eq_one_iff.2 h, hm, at32]

end

/-! ## One iteration of a data-line loop (R181, R185, R186, R192, R194) -/

/-- Transition i starts a frame at or after `pos` and before `t1`: a qualifying edge (R182, R185). -/
structure StartsFrame (s : State) (ch pos t1 i : Nat) : Prop where
  notBefore : pos ≤ s.t i
  inRegion : s.t i < t1
  edge : Changes s ch i
  qualifies : (s.v i).getLsbD ch = s.snap.uartCfg.invert

theorem startsFrame_iff {s : State} {ch pos t1 i : Nat} :
    StartsFrame s ch pos t1 i ↔
      pos ≤ s.t i ∧ s.t i < t1 ∧ Changes s ch i ∧ (s.v i).getLsbD ch = s.snap.uartCfg.invert :=
  ⟨fun ⟨a, b, c, d⟩ => ⟨a, b, c, d⟩, fun ⟨a, b, c, d⟩ => ⟨a, b, c, d⟩⟩

theorem startEdge_test_iff {s : State} {ch pos t1 i : Nat} (hi : 1 ≤ i) :
    (decide (pos ≤ s.t i) && decide (s.t i < t1) && s.qualifying ch i) = true ↔ StartsFrame s ch pos t1 i := by
  simp only [startsFrame_iff, State.qualifying, State.lineAt, Bool.and_eq_true, decide_eq_true_eq, beq_iff_eq,
    edge_iff hi, and_assoc]

/-- A start edge that is found lies below NV and starts a frame. -/
theorem startEdge_eq_some {s : State} {ch pos t1 e : Nat} (h : s.startEdge ch pos t1 = some e) :
    e ∈ s.innerIndices ∧ StartsFrame s ch pos t1 e := by
  have hmem := List.mem_of_find?_eq_some h
  obtain ⟨h1, -⟩ := mem_innerIndices.1 hmem
  rw [State.startEdge] at h
  exact ⟨hmem, (startEdge_test_iff h1).1 (List.find?_some h :)⟩

section
variable {s : State} (role : Role) {ch bd pos t1 : Nat}

theorem frameIterate_of_short_span (h : 2 * t1 < 2 * pos + s.snap.uartCfg.spanHalves * bd) :
    s.frameIterate role ch bd pos t1 = none := if_pos h

theorem frameIterate_of_no_edge (he : s.startEdge ch pos t1 = none) :
    s.frameIterate role ch bd pos t1 = none := by
  unfold State.frameIterate
  split
  · rfl
  · rw [he]

variable {e : Nat} (h : 2 * pos + s.snap.uartCfg.spanHalves * bd ≤ 2 * t1) (he : s.startEdge ch pos t1 = some e)
include h he

theorem frameIterate_of_end (hend : s.abs ≤ s.snap.uartCfg.lastStop bd (s.t e + bd / 2)) :
    s.frameIterate role ch bd pos t1 = none := by
  simp only [State.frameIterate, if_neg (Nat.not_lt.2 h), he, if_pos hend]

variable (hfits : s.snap.uartCfg.lastStop bd (s.t e + bd / 2) < s.abs)
include hfits

theorem frameIterate_of_bad_start (hs : s.logical ch (s.t e + bd / 2) = true) :
    s.frameIterate role ch bd pos t1 =
      some ([.line (at32 (s.t e + bd / 2)) role .startErr], s.t e + 1) := by
  simp only [State.frameIterate, if_neg (Nat.not_lt.2 h), he, if_neg (Nat.not_le.2 hfits), if_pos hs, at32]

theorem frameIterate_of_good_start (hs : s.logical ch (s.t e + bd / 2) = false) :
    s.frameIterate role ch bd pos t1 =
      some (s.frameEvents role ch bd (s.t e + bd / 2), s.snap.uartCfg.lastStop bd (s.t e + bd / 2) + 1) := by
  simp only [State.frameIterate, if_neg (Nat.not_lt.2 h), he, if_neg (Nat.not_le.2 hfits), hs, Bool.false_eq_true,
    if_false]

end

/-- An iteration that goes on has passed a start edge. -/
theorem frameIterate_eq_some {s : State} {role : Role} {ch bd pos t1 : Nat} {es : List Event} {pos' : Nat}
    (h : s.frameIterate role ch bd pos t1 = some (es, pos')) :
    ∃ e ∈ s.innerIndices, pos ≤ s.t e ∧ s.t e < pos' := by
  unfold State.frameIterate at h
  split at h
  · simp at h
  · split at h
    · simp at h
    · next e he =>
      obtain ⟨hmem, hstarts⟩ := startEdge_eq_some he
      have hlast := le_lastStop bd (s.t e + bd / 2) s.snap.uartCfg
      refine ⟨e, hmem, hstarts.notBefore, ?_⟩
      dsimp only at h
      split_ifs at h <;> simp only [Option.some.injEq, Prod.mk.injEq] at h <;> omega

/-! ## Control lines (R196, R197) -/

theorem mem_ctrlIndices {s : State} {r : UartRegion} {i : Nat} :
    i ∈ s.ctrlIndices r ↔ 1 ≤ i ∧ i < s.nv ∧ r.t0 ≤ s.t i ∧ s.t i < r.t1 := by
  rw [State.ctrlIndices, List.mem_filter, mem_innerIndices, Bool.and_eq_true, decide_eq_true_eq, decide_eq_true_eq,
    and_assoc]

theorem ctrlIndices_pairwise_lt (s : State) (r : UartRegion) : (s.ctrlIndices r).Pairwise (· < ·) :=
  (List.pairwise_lt_range' 1).filter _

section
variable {s : State} (role : Role) {ch i : Nat} (hi : 1 ≤ i)
include hi

theorem ctrlEvents_of_rises (h : Rises s ch i) : s.ctrlEvents role ch i = [.line (at32 (s.t i)) role .high] := by
  have hchange : Changes s ch i := by simp [Changes, h.1, h.2]
  simp [State.ctrlEvents, (edge_iff hi).2 hchange, State.lineAt, h.2, at32]

theorem ctrlEvents_of_falls (h : Falls s ch i) : s.ctrlEvents role ch i = [.line (at32 (s.t i)) role .low] := by
  have hchange : Changes s ch i := by simp [Changes, h.1, h.2]
  simp [State.ctrlEvents, (edge_iff hi).2 hchange, State.lineAt, h.2, at32]

theorem ctrlEvents_of_level (h : ¬Changes s ch i) : s.ctrlEvents role ch i = [] := by
  rw [State.ctrlEvents, if_neg (mt (edge_iff hi).1 h)]

end

theorem length_ctrlEvents_le (s : State) (role : Role) (ch i : Nat) : (s.ctrlEvents role ch i).length ≤ 1 := by
  unfold State.ctrlEvents
  split_ifs <;> simp

/-! ## Emissions that fit (R205) -/

/-- Events that the event memory has room for are all written, after the records that are there. -/
theorem emitAll_of_room {s : State} (hm : s.mem.wf = true) (ho : s.evtOvf = false) {es : List Event}
    (hroom : s.evtCount.toNat + es.length ≤ s.eMax.toNat) :
    s.emitAll es = { s with mem := (s.emitAll es).mem, evtCount := (s.emitAll es).evtCount } ∧
      (s.emitAll es).records = s.records ++ es.map Event.record ∧
      ∀ a, a < eventAddr s.evtCount.toNat ∨ eventAddr (s.evtCount.toNat + es.length) ≤ a →
        (s.emitAll es).mem.readByte a = s.mem.readByte a := by
  have hall := emitAll_eq ho ((Nat.le_add_right _ _).trans hroom) es
  have htaken : taken (s.eMax.toNat - s.evtCount.toNat) es = es.map Event.record :=
    List.take_of_length_le (by rw [List.length_map]; omega)
  have hmax := s.eMax.isLt
  have hcount : (BitVec.ofNat 32 (s.evtCount.toNat + es.length)).toNat = s.evtCount.toNat + es.length := by
    rw [BitVec.toNat_ofNat, Nat.mod_eq_of_lt (by omega)]
  rw [htaken, List.length_map] at hall
  rw [hall]
  refine ⟨by simp [ho, Nat.not_lt.2 hroom], ?_, fun a ha =>
    readByte_writeRecords_of_ne hm _ (by rwa [List.length_map])⟩
  have hnew := Memory.records_writeRecords hm s.evtCount.toNat (es.map Event.record)
  rw [List.length_map] at hnew
  simp only [State.records, hcount, List.range_eq_range', ← List.range'_append_1, List.map_append, Nat.zero_add, hnew]
  congr 1
  refine List.map_congr_left fun j hj => Memory.record_writeRecords_of_lt hm _ ?_
  have := List.mem_range'_1.1 hj
  omega

/-! ## The merge (R204) -/

theorem insertRecord_eq_orderedInsert (r : Record) (rs : List Record) :
    insertRecord r rs = rs.orderedInsert (fun a b => recordLe a b = true) r := by
  induction rs with
  | nil => rfl
  | cons q rs ih => rw [insertRecord, List.orderedInsert_cons, ih]

/-- The sort of the merge is the insertion sort by TIME. -/
theorem sortRecords_eq_insertionSort (rs : List Record) :
    sortRecords rs = rs.insertionSort (fun a b => recordLe a b = true) := by
  induction rs with
  | nil => rfl
  | cons r rs ih => rw [sortRecords, List.insertionSort_cons, insertRecord_eq_orderedInsert, ih]

theorem sortRecords_perm (rs : List Record) : (sortRecords rs).Perm rs := by
  rw [sortRecords_eq_insertionSort]
  exact List.perm_insertionSort _ rs

theorem length_sortRecords (rs : List Record) : (sortRecords rs).length = rs.length := (sortRecords_perm rs).length_eq

/-- The order by TIME is total and transitive, so that the sort of the merge puts its records in time order. -/
theorem sortRecords_timeOrdered (rs : List Record) : TimeOrdered (sortRecords rs) := by
  have hle (a b : Record) : recordLe a b = true ↔ a.1.toNat ≤ b.1.toNat := decide_eq_true_iff
  have htotal : Std.Total (fun a b : Record => recordLe a b = true) :=
    ⟨fun a b => by simpa only [hle] using Nat.le_total a.1.toNat b.1.toNat⟩
  have htrans : IsTrans Record (fun a b => recordLe a b = true) :=
    ⟨fun a b c => by simpa only [hle] using Nat.le_trans⟩
  rw [sortRecords_eq_insertionSort]
  exact (List.pairwise_insertionSort _ rs).imp fun {a b} => (hle a b).1

/-- A record is put before every record of its own TIME: those it passes are earlier. -/
theorem filter_insertRecord (time : Word) (r : Record) (rs : List Record) :
    (insertRecord r rs).filter (fun q => q.1 == time) = (r :: rs).filter (fun q => q.1 == time) := by
  induction rs with
  | nil => rfl
  | cons q rs ih =>
    rw [insertRecord]
    split
    · rfl
    · next hgt =>
      have hne : ¬(q.1 = time ∧ r.1 = time) := by
        rintro ⟨hq, hr⟩
        simp [recordLe, hq, hr] at hgt
      rw [List.filter_cons, ih]
      simp only [List.filter_cons, beq_iff_eq]
      split_ifs with hq hr
      · exact absurd ⟨hq, hr⟩ hne
      all_goals rfl

/-- The sort keeps the order of records of the same TIME. -/
theorem filter_sortRecords (time : Word) (rs : List Record) :
    (sortRecords rs).filter (fun q => q.1 == time) = rs.filter (fun q => q.1 == time) := by
  induction rs with
  | nil => rfl
  | cons r rs ih => rw [sortRecords, filter_insertRecord, List.filter_cons, List.filter_cons, ih]

theorem length_records (s : State) : s.records.length = s.evtCount.toNat := by
  rw [State.records, List.length_map, List.length_range]

theorem merge_records {s : State} (hm : s.mem.wf = true) : s.merge.records = sortRecords s.records := by
  have h := Memory.records_writeRecords hm 0 (sortRecords s.records)
  rwa [length_sortRecords, length_records, ← List.range_eq_range'] at h

/-- The merge writes the valid records only. -/
theorem readByte_merge {s : State} (hm : s.mem.wf = true) {a : Nat}
    (h : a < eventAddr 0 ∨ eventAddr s.evtCount.toNat ≤ a) : s.merge.mem.readByte a = s.mem.readByte a :=
  readByte_writeRecords_of_ne hm _ (by rwa [length_sortRecords, length_records, Nat.zero_add])

/-! ## The steps (R195, R218, R219, R221) -/

theorem exec_decodeUart_of_sequencer {s : State} (h : s.turn = .sequencer) : exec .decodeUart s = .next s.runUart :=
  commandStep_of_sequencer h _ _

theorem runUart_of_scanAt {s : State} {scan : UartScan} (h : UartScanAt s scan) : s.runUart = s.uartStep scan := by
  obtain hseq | ⟨⟨c, hseq⟩, hv, rfl⟩ := h
  · simp [State.runUart, hseq]
  · simp [State.runUart, hseq, State.uartBegin, hv]

theorem runUart_of_closing {s : State} {rx tx : Word} (h : s.seq = .uartClosing rx tx) :
    s.runUart = { s.completeDecode with baudRx := rx, baudTx := tx } := by
  simp [State.runUart, h]

/-- The most frequent pulse duration of a channel, the bit duration that an estimator run keeps (R183). -/
def State.bitDuration (s : State) (ch : Nat) : Nat := (estimateOf (s.durations (1#32 <<< ch))).best

/-- The region of a scan. -/
def UartScan.region (scan : UartScan) : UartRegion := { t0 := scan.t0, t1 := scan.t1 }

/-- What the estimator runs of a decode leave for its completion: the flags and the bit durations (R175, R183). -/
structure UartMarks where
  noBaudRx : Bool
  noBaudTx : Bool
  baudRx : Word
  baudTx : Word

/-- No estimator run has been made (R175). -/
def UartMarks.unmarked : UartMarks := { noBaudRx := false, noBaudTx := false, baudRx := 0#32, baudTx := 0#32 }

/-- The marks of a decode with scan state `scan`. -/
def State.marks (s : State) (scan : UartScan) : UartMarks :=
  { noBaudRx := s.noBaudRx, noBaudTx := s.noBaudTx, baudRx := scan.baudRx, baudTx := scan.baudTx }

/-- `s` with the flags of the estimates. -/
def State.marked (m : UartMarks) (s : State) : State := { s with noBaudRx := m.noBaudRx, noBaudTx := m.noBaudTx }

/-- A scan with other iterations left and other estimates. -/
def UartScan.goesOn (m : UartMarks) (work : List UartItem) (scan : UartScan) : UartScan :=
  { scan with work := work, baudRx := m.baudRx, baudTx := m.baudTx }

/-- An estimator run notes its line's bit duration; no other iteration notes anything (R183). -/
def UartMarks.note (s : State) (m : UartMarks) : UartItem → UartMarks
  | .estimate .txd ch =>
    { m with noBaudTx := m.noBaudTx || s.bitDuration ch == 0, baudTx := at32 (s.bitDuration ch) }
  | .estimate _ ch =>
    { m with noBaudRx := m.noBaudRx || s.bitDuration ch == 0, baudRx := at32 (s.bitDuration ch) }
  | .frame _ _ _ _ | .ctrl _ _ _ => m

/-- What one iteration does: the events it emits, and the iterations that take its place. -/
structure ItemStep where
  events : List Event
  next : List UartItem

/-- An iteration of DECODE_UART over a region: an estimator run (R183), an iteration of a data-line loop (R181), or a
transition of a control line (R196). -/
def itemStep (s : State) (r : UartRegion) : UartItem → ItemStep
  | .estimate role ch =>
    { events := []
      next := if s.bitDuration ch = 0 then [] else [.frame role ch (s.bitDuration ch) r.t0] }
  | .frame role ch bd pos =>
    match s.frameIterate role ch bd pos r.t1 with
    | none => { events := [], next := [] }
    | some (es, pos') => { events := es, next := [.frame role ch bd pos'] }
  | .ctrl role ch i => { events := s.ctrlEvents role ch i, next := [] }

/-- After an estimator run the first iteration of its line's loop comes next, unless the bit duration is 0 (R183). -/
theorem estimate_next_append (s : State) (r : UartRegion) (role : Role) (ch : Nat) (rest : List UartItem) :
    (itemStep s r (.estimate role ch)).next ++ rest =
      if s.bitDuration ch = 0 then rest else .frame role ch (s.bitDuration ch) r.t0 :: rest := by
  simp only [itemStep]
  split <;> rfl

/-- An iteration of a scan, its poll apart: its events are emitted, its marks noted, and the scan goes on unless the event
memory overflows (R221). -/
def State.afterItem (s : State) (scan : UartScan) (item : UartItem) (rest : List UartItem) : State :=
  let u := s.emitAll (itemStep s scan.region item).events
  let m := (s.marks scan).note s item
  { u.marked m with
    seq := .uart (scan.goesOn m (if u.evtOvf then [] else (itemStep s scan.region item).next ++ rest)) }

section
variable {s : State} {scan : UartScan} {rest : List UartItem}

theorem uartStep_of_drained (h : scan.work = []) :
    s.uartStep scan = { s.merge with seq := .uartClosing scan.baudRx scan.baudTx } := by
  simp only [State.uartStep, h]

theorem uartStep_of_cancel {role : Role} {ch bd pos i : Nat}
    (h : scan.work = .frame role ch bd pos :: rest ∨ scan.work = .ctrl role ch i :: rest) (hc : s.cancelReq = true) :
    s.uartStep scan = { s with cancelled := true, seq := .uart { scan with work := [] } } := by
  obtain h | h := h <;> simp only [State.uartStep, h, hc, if_true, State.uartCancel]

/-- An estimator run notes its bit duration, and a zero one ends the pass; it does not poll (R183, R195). -/
theorem uartStep_of_estimate {role : Role} {ch : Nat} (h : scan.work = .estimate role ch :: rest) :
    s.uartStep scan =
      { s.marked ((s.marks scan).note s (.estimate role ch)) with
        seq := .uart (scan.goesOn ((s.marks scan).note s (.estimate role ch))
          ((itemStep s scan.region (.estimate role ch)).next ++ rest)) } := by
  have hbest : (s.estimate (1#32 <<< ch)).best = s.bitDuration ch := rfl
  have hwork := estimate_next_append s scan.region role ch rest
  rw [UartScan.region] at hwork
  simp only [State.uartStep, h, State.uartEstimate, hbest, ← hwork]
  cases role <;> rfl

theorem uartEmit_eq (s : State) (scan : UartScan) (work : List UartItem) (es : List Event) :
    s.uartEmit scan work es =
      { (s.emitAll es).marked (s.marks scan) with
        seq := .uart (scan.goesOn (s.marks scan) (if (s.emitAll es).evtOvf then [] else work)) } := by
  obtain ⟨_, _, _, e⟩ := emitAll_shape s es
  rw [State.uartEmit, e]
  rfl

theorem uartStep_of_ctrl {role : Role} {ch i : Nat} (h : scan.work = .ctrl role ch i :: rest)
    (hc : s.cancelReq = false) : s.uartStep scan = s.uartEmit scan rest (s.ctrlEvents role ch i) := by
  simp only [State.uartStep, h, hc, Bool.false_eq_true, if_false]

/-- An iteration of a data-line loop emits its events, and its next iteration takes its place. -/
theorem uartFrame_eq (s : State) (scan : UartScan) (role : Role) (ch bd pos : Nat) (rest : List UartItem) :
    s.uartFrame scan role ch bd pos rest =
      s.uartEmit scan ((itemStep s scan.region (.frame role ch bd pos)).next ++ rest)
        (itemStep s scan.region (.frame role ch bd pos)).events := by
  simp only [State.uartFrame, itemStep, UartScan.region]
  cases s.frameIterate role ch bd pos scan.t1 <;> rfl

/-- Without a cancel request and an overflow, the step of a decode is its next iteration. -/
theorem uartStep_of_item {item : UartItem} (h : scan.work = item :: rest) (hc : s.cancelReq = false)
    (ho : s.evtOvf = false) : s.uartStep scan = s.afterItem scan item rest := by
  cases item with
  | estimate role ch =>
    have hroom : (s.emitAll (itemStep s scan.region (.estimate role ch)).events).evtOvf = false := ho
    rw [uartStep_of_estimate h, State.afterItem, if_neg (by simp [hroom])]
    rfl
  | frame role ch bd pos =>
    simp only [State.uartStep, h, hc, Bool.false_eq_true, if_false]
    rw [uartFrame_eq, uartEmit_eq]
    rfl
  | ctrl role ch i =>
    rw [uartStep_of_ctrl h hc, uartEmit_eq]
    rfl

end

end Sys2Proof.Machine
end

section
/-! SUPPORT. The whole UART decode (spec/43_uart.md, spec/44_sequencer.md R218, R221): what it reads stays while it runs,
each iteration is one step of a run that gets shorter, and what the run emits and notes is known from its iterations. -/

namespace Sys2Proof.Machine

open Sys2Proof.Safety Sys2Proof.Statement

/-! ## What the passes read (R126, R181, R217) -/

theorem SameStore.trans {s t u : State} (h : SameStore s t) (h' : SameStore t u) : SameStore s u :=
  ⟨fun x hx => (h'.words x hx).trans (h.words x hx), h'.registers.trans h.registers⟩

/-- `t` has the operands and the store of `s`, whose transitions lie in the transition window. -/
structure SameInput (s t : State) : Prop extends SameStore s t where
  snap : t.snap = s.snap
  inWindow : s.nTrans.toNat ≤ 2 ^ 21

theorem lastAtOrBefore_congr {f g : Nat → Nat} {n : Nat} (h : ∀ i < n, f i = g i) (x : Nat) :
    lastAtOrBefore f x n = lastAtOrBefore g x n := by
  induction n with
  | zero => rfl
  | succ n ih =>
    rw [lastAtOrBefore, lastAtOrBefore, h n (Nat.lt_succ_self n), ih fun i hi => h i (Nat.lt_succ_of_lt hi)]

theorem lastAtOrBefore_le (f : Nat → Nat) (x n : Nat) : lastAtOrBefore f x n ≤ n - 1 := by
  induction n with
  | zero => exact le_rfl
  | succ n ih =>
    rw [lastAtOrBefore]
    split <;> omega

theorem durationsFrom_congr {f g : Nat → Nat} {es : List Nat} (h : ∀ i ∈ es, f i = g i) (prev : Nat) :
    durationsFrom f prev es = durationsFrom g prev es := by
  induction es generalizing prev with
  | nil => rfl
  | cons i es ih =>
    obtain ⟨hi, hes⟩ := List.forall_mem_cons.1 h
    rw [durationsFrom, durationsFrom, hi, ih hes]

section
variable {s t : State} (h : SameInput s t)
include h

theorem SameInput.nTrans_eq : t.nTrans = s.nTrans := by
  have hr := h.registers
  simp only [State.storeRegisters, Prod.mk.injEq] at hr
  obtain ⟨e, -⟩ := hr
  exact e

theorem SameInput.abs_eq : t.abs = s.abs := by
  have hr := h.registers
  simp only [State.storeRegisters, Prod.mk.injEq] at hr
  obtain ⟨-, -, e, -⟩ := hr
  exact congrArg BitVec.toNat e

theorem SameInput.sampleIndexAt_eq (x : Nat) : t.sampleIndexAt x = s.sampleIndexAt x := by
  have hwindow := h.inWindow
  rw [State.sampleIndexAt, State.sampleIndexAt, h.nTrans_eq]
  exact lastAtOrBefore_congr (fun i hi => (h.entry_eq (by omega)).2) x

theorem SameInput.sampleIndexAt_lt (x : Nat) : s.sampleIndexAt x < 2 ^ 21 := by
  have hwindow := h.inWindow
  have hle := lastAtOrBefore_le s.t x s.nTrans.toNat
  rw [State.sampleIndexAt]
  omega

theorem SameInput.logical_eq : t.logical = s.logical := by
  funext ch x
  obtain ⟨hv, -⟩ := h.entry_eq (h.sampleIndexAt_lt x)
  rw [State.logical, State.level, State.valueAt, h.sampleIndexAt_eq, hv, h.snap]
  rfl

theorem SameInput.innerIndices_eq : t.innerIndices = s.innerIndices := by
  rw [State.innerIndices, State.nv, h.abs_eq, h.sampleIndexAt_eq]
  rfl

theorem SameInput.lt_of_mem_innerIndices {i : Nat} (hi : i ∈ s.innerIndices) : i < 2 ^ 21 := by
  obtain ⟨-, hnv⟩ := mem_innerIndices.1 hi
  have hlast := h.sampleIndexAt_lt (s.abs - 1)
  rw [State.nv] at hnv
  omega

section
variable {i : Nat} (hi : i < 2 ^ 21)
include hi

theorem SameInput.lineAt_eq (ch : Nat) : t.lineAt ch i = s.lineAt ch i := by
  rw [State.lineAt, (h.entry_eq hi).1, State.lineAt]

theorem SameInput.edge_eq (ch : Nat) : t.edge ch i = s.edge ch i := by
  rw [State.edge, h.lineAt_eq hi, h.lineAt_eq (i := i - 1) (by omega), State.edge]

theorem SameInput.ctrlEvents_eq (role : Role) (ch : Nat) : t.ctrlEvents role ch i = s.ctrlEvents role ch i := by
  rw [State.ctrlEvents, h.edge_eq hi, h.lineAt_eq hi, (h.entry_eq hi).2, State.ctrlEvents]

theorem SameInput.maskEdge_eq (mask : Word) : t.maskEdge mask i = s.maskEdge mask i := by
  rw [State.maskEdge, (h.entry_eq hi).1, (h.entry_eq (i := i - 1) (by omega)).1, State.maskEdge]

end

theorem SameInput.bitDuration_eq (ch : Nat) : t.bitDuration ch = s.bitDuration ch := by
  have hedges (mask : Word) : t.maskEdges mask = s.maskEdges mask := by
    rw [State.maskEdges, h.innerIndices_eq]
    exact List.filter_congr fun i hi => h.maskEdge_eq (h.lt_of_mem_innerIndices hi) mask
  rw [State.bitDuration, durations_eq, hedges, State.bitDuration, durations_eq]
  congr 2
  exact durationsFrom_congr (fun i hi => (h.entry_eq (h.lt_of_mem_innerIndices (List.mem_of_mem_filter hi))).2) 0

theorem SameInput.startEdge_eq (ch pos t1 : Nat) : t.startEdge ch pos t1 = s.startEdge ch pos t1 := by
  rw [State.startEdge, h.innerIndices_eq]
  refine List.find?_congr fun i hi => ?_
  have hlt := h.lt_of_mem_innerIndices hi
  rw [State.qualifying, h.edge_eq hlt, h.lineAt_eq hlt, (h.entry_eq hlt).2, h.snap]
  rfl

theorem SameInput.frameEvents_eq (role : Role) (ch bd s0 : Nat) :
    t.frameEvents role ch bd s0 = s.frameEvents role ch bd s0 := by
  unfold State.frameEvents State.dataWord State.parityEvents State.stopEvents
  rw [h.logical_eq, h.snap]

theorem SameInput.frameIterate_eq (role : Role) (ch bd pos t1 : Nat) :
    t.frameIterate role ch bd pos t1 = s.frameIterate role ch bd pos t1 := by
  unfold State.frameIterate
  rw [h.startEdge_eq, h.snap]
  cases he : s.startEdge ch pos t1 with
  | none => rfl
  | some e =>
    obtain ⟨hmem, -⟩ := startEdge_eq_some he
    simp only [(h.entry_eq (h.lt_of_mem_innerIndices hmem)).2, h.abs_eq, h.logical_eq, h.frameEvents_eq]

/-- An iteration does the same wherever the store and the operands are the same. -/
theorem SameInput.itemStep_eq (r : UartRegion) {item : UartItem}
    (hitem : ∀ role ch i, item = .ctrl role ch i → i < 2 ^ 21) : itemStep t r item = itemStep s r item := by
  cases item with
  | estimate role ch => simp only [itemStep, h.bitDuration_eq]
  | frame role ch bd pos => simp only [itemStep, h.frameIterate_eq]
  | ctrl role ch i => simp only [itemStep, h.ctrlEvents_eq (hitem role ch i rfl)]

theorem SameInput.note_eq (m : UartMarks) (item : UartItem) : m.note t item = m.note s item := by
  cases item with
  | estimate role ch => cases role <;> simp only [UartMarks.note, h.bitDuration_eq]
  | frame | ctrl => rfl

end

/-! ## The iterations left (R181, R218, R223) -/

/-- The transitions below NV that a data-line loop at `pos` has not passed. -/
def State.edgesLeft (s : State) (pos : Nat) : List Nat := s.innerIndices.filter (fun i => decide (pos ≤ s.t i))

theorem length_edgesLeft_lt_nv (s : State) (pos : Nat) : (s.edgesLeft pos).length < s.nv := by
  have hle := List.length_filter_le (fun i => decide (pos ≤ s.t i)) s.innerIndices
  rw [State.innerIndices, List.length_range'] at hle
  exact Nat.lt_of_le_of_lt hle (Nat.sub_lt (Nat.succ_pos _) Nat.one_pos)

/-- An iteration that goes on passes a transition at least (R223). -/
theorem length_edgesLeft_lt {s : State} {role : Role} {ch bd pos t1 : Nat} {es : List Event} {pos' : Nat}
    (h : s.frameIterate role ch bd pos t1 = some (es, pos')) :
    (s.edgesLeft pos').length < (s.edgesLeft pos).length := by
  obtain ⟨e, hmem, hle, hlt⟩ := frameIterate_eq_some h
  have hsub : s.edgesLeft pos' = (s.edgesLeft pos).filter (fun i => decide (pos' ≤ s.t i)) := by
    rw [State.edgesLeft, State.edgesLeft, List.filter_filter]
    refine List.filter_congr fun i _ => ?_
    rw [← Bool.decide_and, decide_eq_decide]
    omega
  rw [hsub, List.length_filter_lt_length_iff_exists]
  exact ⟨e, List.mem_filter.2 ⟨hmem, decide_eq_true hle⟩, by simpa using hlt⟩

/-- More iterations than there are transitions left add nothing to the events of a data line. -/
theorem dataLineEvents_of_enough {s : State} {role : Role} {ch bd t1 n k pos : Nat}
    (hn : (s.edgesLeft pos).length < n) (hk : (s.edgesLeft pos).length < k) :
    dataLineEvents s role ch bd t1 n pos = dataLineEvents s role ch bd t1 k pos := by
  induction n generalizing k pos with
  | zero => simp at hn
  | succ n ih =>
    cases k with
    | zero => simp at hk
    | succ k =>
      rw [dataLineEvents, dataLineEvents]
      cases hit : s.frameIterate role ch bd pos t1 with
      | none => rfl
      | some r =>
        have hlt := length_edgesLeft_lt (es := r.1) (pos' := r.2) hit
        exact congrArg (r.1 ++ ·) (ih (by omega) (by omega))

/-- The events that an iteration and those that take its place emit (R181, R183, R197). -/
def itemEvents (s : State) (r : UartRegion) : UartItem → List Event
  | .estimate role ch =>
    if s.bitDuration ch = 0 then [] else dataLineEvents s role ch (s.bitDuration ch) r.t1 (s.nv + 1) r.t0
  | .frame role ch bd pos => dataLineEvents s role ch bd r.t1 (s.nv + 1) pos
  | .ctrl role ch i => s.ctrlEvents role ch i

/-- The events of the iterations left. -/
def workEvents (s : State) (r : UartRegion) (work : List UartItem) : List Event := work.flatMap (itemEvents s r)

theorem workEvents_cons (s : State) (r : UartRegion) (item : UartItem) (rest : List UartItem) :
    workEvents s r (item :: rest) = itemEvents s r item ++ workEvents s r rest := List.flatMap_cons

theorem workEvents_append (s : State) (r : UartRegion) (work rest : List UartItem) :
    workEvents s r (work ++ rest) = workEvents s r work ++ workEvents s r rest := List.flatMap_append

/-- The events of an iteration come first, then those of the iterations in its place. -/
theorem itemEvents_eq (s : State) (r : UartRegion) (item : UartItem) :
    itemEvents s r item = (itemStep s r item).events ++ workEvents s r (itemStep s r item).next := by
  cases item with
  | estimate role ch =>
    simp only [itemEvents, itemStep]
    split
    · rfl
    · simp [workEvents, itemEvents]
  | frame role ch bd pos =>
    have hleft := length_edgesLeft_lt_nv s pos
    simp only [itemEvents, itemStep]
    rw [dataLineEvents]
    cases hit : s.frameIterate role ch bd pos r.t1 with
    | none => rfl
    | some q =>
      have hlt := length_edgesLeft_lt (es := q.1) (pos' := q.2) hit
      simp only [workEvents, itemEvents, List.flatMap_cons, List.flatMap_nil, List.append_nil]
      exact congrArg (q.1 ++ ·) (dataLineEvents_of_enough (by omega) (by omega))
  | ctrl role ch i => simp [itemEvents, itemStep, workEvents]

/-- The number of steps that an iteration and those that take its place need at most (R223). -/
def itemSteps (s : State) : UartItem → Nat
  | .estimate _ _ => s.nv + 1
  | .frame _ _ _ pos => (s.edgesLeft pos).length + 1
  | .ctrl _ _ _ => 1

/-- The number of steps that the iterations left need at most. -/
def workSteps (s : State) (work : List UartItem) : Nat := (work.map (itemSteps s)).sum

/-- What takes the place of an iteration needs fewer steps. -/
theorem workSteps_next_lt (s : State) (r : UartRegion) (item : UartItem) :
    workSteps s (itemStep s r item).next < itemSteps s item := by
  cases item with
  | estimate role ch =>
    have hleft := length_edgesLeft_lt_nv s r.t0
    simp only [itemStep]
    split <;> simp [workSteps, itemSteps, hleft]
  | frame role ch bd pos =>
    simp only [itemStep]
    cases hit : s.frameIterate role ch bd pos r.t1 with
    | none => simp [workSteps, itemSteps]
    | some q => simpa [workSteps, itemSteps] using length_edgesLeft_lt (es := q.1) (pos' := q.2) hit
  | ctrl role ch i => simp [itemStep, workSteps, itemSteps]

/-- Only an iteration of a data-line loop takes the place of another iteration. -/
theorem itemStep_next_cases (s : State) (r : UartRegion) (item : UartItem) :
    (itemStep s r item).next = [] ∨ ∃ role ch bd pos, (itemStep s r item).next = [.frame role ch bd pos] := by
  cases item with
  | estimate role ch =>
    simp only [itemStep]
    split
    · exact .inl rfl
    · exact .inr ⟨_, _, _, _, rfl⟩
  | frame role ch bd pos =>
    simp only [itemStep]
    cases s.frameIterate role ch bd pos r.t1 with
    | none => exact .inl rfl
    | some q => exact .inr ⟨_, _, _, _, rfl⟩
  | ctrl role ch i => exact .inl rfl

/-- The marks after the iterations left: the iteration that overflows an event memory with room for `room` records is the
last one (R221). -/
def marksAfter (s : State) (r : UartRegion) : Nat → UartMarks → List UartItem → UartMarks
  | _, m, [] => m
  | room, m, item :: rest =>
    if room < (itemEvents s r item).length then m.note s item
    else marksAfter s r (room - (itemEvents s r item).length) (m.note s item) rest

/-- The marks do not depend on whether a data-line loop is taken as a whole or iteration by iteration. -/
theorem marksAfter_cons (s : State) (r : UartRegion) (room : Nat) (m : UartMarks) (item : UartItem)
    (rest : List UartItem) :
    marksAfter s r room m (item :: rest) =
      if room < (itemStep s r item).events.length then m.note s item
      else marksAfter s r (room - (itemStep s r item).events.length) (m.note s item)
        ((itemStep s r item).next ++ rest) := by
  rw [marksAfter, itemEvents_eq, List.length_append]
  obtain hnext | ⟨role, ch, bd, pos, hnext⟩ := itemStep_next_cases s r item
  · rw [hnext]
    rfl
  · have hone : workEvents s r [.frame role ch bd pos] = itemEvents s r (.frame role ch bd pos) := by
      rw [workEvents, List.flatMap_singleton]
    rw [hnext, List.singleton_append, marksAfter, hone, Nat.sub_sub]
    by_cases hnow : room < (itemStep s r item).events.length
    · rw [if_pos hnow, if_pos (Nat.lt_add_right _ hnow)]
    · rw [if_neg hnow]
      refine if_congr ?_ rfl rfl
      omega

theorem marksAfter_of_unnoted {s : State} {r : UartRegion} {work : List UartItem} (room : Nat) (m : UartMarks)
    (h : ∀ item ∈ work, ∀ m : UartMarks, m.note s item = m) : marksAfter s r room m work = m := by
  induction work generalizing room with
  | nil => rfl
  | cons item rest ih =>
    obtain ⟨hitem, hrest⟩ := List.forall_mem_cons.1 h
    rw [marksAfter, hitem, ih _ hrest, ite_self]

/-! ## Emission beside the marks -/

theorem emit_marked (s : State) (m : UartMarks) (e : Event) : (s.marked m).emit e = (s.emit e).marked m := by
  obtain ⟨ho, h⟩ | ⟨ho, hc, h⟩ | ⟨ho, hc, h⟩ := emit_cases s e <;> rw [h]
  · exact if_pos ho
  · exact (if_neg (by simpa [State.marked] using ho)).trans (if_pos hc)
  · exact (if_neg (by simpa [State.marked] using ho)).trans (if_neg hc)

/-- Emission neither reads nor writes the flags of the estimates. -/
theorem emitAll_marked (s : State) (m : UartMarks) (es : List Event) :
    (s.marked m).emitAll es = (s.emitAll es).marked m := by
  induction es generalizing s with
  | nil => rfl
  | cons e es ih =>
    rw [State.emitAll, List.foldl_cons, emit_marked, ← State.emitAll, ih]
    rfl

/-- The number of records that the event memory still takes. -/
def State.room (s : State) : Nat := s.eMax.toNat - s.evtCount.toNat

/-- A run of emissions overflows when it is longer than the room there is, and else takes its length from it (R221). -/
theorem emitAll_room {s : State} (ho : s.evtOvf = false) (hc : s.evtCount.toNat ≤ s.eMax.toNat) (es : List Event) :
    (s.emitAll es).evtOvf = decide (s.room < es.length) ∧
      (s.emitAll es).evtCount.toNat ≤ (s.emitAll es).eMax.toNat ∧
      (s.room ≥ es.length → (s.emitAll es).room = s.room - es.length) := by
  have hmax := s.eMax.isLt
  have hlen : (taken s.room es).length = min s.room es.length := by
    rw [taken, List.length_take, List.length_map]
  have hroom : s.room = s.eMax.toNat - s.evtCount.toNat := rfl
  have hcount : (BitVec.ofNat 32 (s.evtCount.toNat + (taken s.room es).length)).toNat =
      s.evtCount.toNat + (taken s.room es).length := by
    rw [BitVec.toNat_ofNat, Nat.mod_eq_of_lt (by omega)]
  rw [emitAll_eq ho hc es, ← State.room]
  refine ⟨?_, ?_, fun hfits => ?_⟩
  · rw [decide_eq_decide]
    omega
  · show (BitVec.ofNat 32 _).toNat ≤ s.eMax.toNat
    rw [hcount]
    omega
  · show s.eMax.toNat - (BitVec.ofNat 32 _).toNat = _
    rw [hcount]
    omega

/-! ## The run of a decode (R195, R204, R218, R221) -/

/-- `s` after the merge and the completion of a decode with its marks (R204, R233). -/
def State.uartDone (m : UartMarks) (s : State) : State :=
  { (s.merge.marked m).completeDecode with baudRx := m.baudRx, baudTx := m.baudTx }

section
variable (s : State) (m : UartMarks) (r : RunState)

@[simp] theorem uartDone_cancelled : ((s.uartDone m).withRun r).cancelled = s.cancelled := by
  simp only [State.withRun, State.uartDone, State.completeDecode, State.complete_cancelled, State.finalCounts_cancelled,
    State.marked, State.merge_cancelled]

@[simp] theorem uartDone_evtOvf : ((s.uartDone m).withRun r).evtOvf = s.evtOvf := by
  simp only [State.withRun, State.uartDone, State.completeDecode, State.complete_evtOvf, State.finalCounts_evtOvf,
    State.marked, State.merge_evtOvf]

@[simp] theorem uartDone_evtCount : ((s.uartDone m).withRun r).evtCount = s.evtCount := by
  simp only [State.withRun, State.uartDone, State.completeDecode, State.complete_evtCount, State.finalCounts_evtCount,
    State.marked, State.merge_evtCount]

@[simp] theorem uartDone_mem : ((s.uartDone m).withRun r).mem = s.merge.mem := rfl
@[simp] theorem uartDone_records : ((s.uartDone m).withRun r).records = s.merge.records := by
  rw [State.records, uartDone_evtCount, uartDone_mem]
  rfl
@[simp] theorem uartDone_symCount :
    ((s.uartDone m).withRun r).symCount = BitVec.ofNat 32 (s.merge.records.countP (fun q => !infoIsLine q.2)) := rfl
@[simp] theorem uartDone_errCount :
    ((s.uartDone m).withRun r).errCount = BitVec.ofNat 32 (s.merge.records.countP (fun q => infoIsError q.2)) := rfl

end

/-- From `s` on, a decode has emitted `es` and completed with the marks `m` after `k` steps; `r` is the run state that it
ends with. -/
structure UartCompletes (s : State) (es : List Event) (m : UartMarks) (k : Nat) (r : RunState) : Prop where
  reaches : Reaches k s (((s.emitAll es).uartDone m).withRun r)
  idle : r.seq = .idle
  sequencerTurn : r.turn = .sequencer
  progress : s.cancelled = false → (s.emitAll es).evtOvf = false → r.progress = 100#7
  alone : s.host = [] → r.host = [] ∧ r.readData = s.readData ∧ r.busErr = s.busErr

theorem uartScanAt_withRun {s : State} {scan : UartScan} {r : RunState} (h : UartScanAt s scan) (hr : r.seq = s.seq) :
    UartScanAt (s.withRun r) scan := by
  obtain hseq | ⟨⟨c, hseq⟩, hrest⟩ := h
  · exact .inl (hr.trans hseq)
  · exact .inr ⟨⟨c, hr.trans hseq⟩, hrest⟩

/-- A decode with no iteration left, and for which `es` holds nothing that is still to be written, merges and completes
(R204, R218). -/
theorem uartCompletes_of_drained {s : State} {scan : UartScan} (h : Watched .decodeUart s) (hscan : UartScanAt s scan)
    (hwork : scan.work = []) {es : List Event} (hes : s.emitAll es = s) :
    ∃ k r, UartCompletes s es (s.marks scan) k r := by
  obtain ⟨j, q, hq, hqturn, -, hmerge⟩ := reaches_sequencer_turn h
  let u : State := s.merge.withRun { q with seq := .uartClosing scan.baudRx scan.baudTx }
  have hmerged : exec .decodeUart (s.withRun q) = .next u := by
    rw [exec_decodeUart_of_sequencer hqturn, runUart_of_scanAt (uartScanAt_withRun hscan hq.seq),
      uartStep_of_drained hwork]
    rfl
  have hu : Watched .decodeUart u := { h with onlyWatched := hq.onlyWatched, running := rfl }
  obtain ⟨k, r, hr, hturn, -, hclose⟩ := reaches_sequencer_turn hu
  have hclosed : exec .decodeUart (u.withRun r) =
      .next { (u.withRun r).completeDecode with baudRx := scan.baudRx, baudTx := scan.baudTx } := by
    rw [exec_decodeUart_of_sequencer hturn, runUart_of_closing hr.seq]
  refine ⟨j + 1 + (k + 1), (u.withRun r).completeDecode.runState, ?_, rfl, hturn, fun hc ho => ?_, fun hs => ?_⟩
  · rw [hes]
    exact reaches_add (hmerge _ hmerged) (hclose _ hclosed)
  · rw [hes] at ho
    show (if s.cancelled || s.evtOvf then r.progress else 100#7) = 100#7
    simp [hc, ho]
  · obtain ⟨hhost, hread, herr⟩ := hq.alone hs
    obtain ⟨hhost', hread', herr'⟩ := hr.alone hhost
    exact ⟨hhost', hread'.trans hread, herr'.trans herr⟩

/-- A step that emits `es` and changes the marks, and then a decode that has `fs` still to emit. -/
theorem UartCompletes.after_step {s : State} {es fs : List Event} {m m' : UartMarks} {j k : Nat} {q r : RunState}
    (hstep : Reaches j s (((s.emitAll es).marked m').withRun q))
    (halone : s.host = [] → q.host = [] ∧ q.readData = s.readData ∧ q.busErr = s.busErr)
    (h : UartCompletes (((s.emitAll es).marked m').withRun q) fs m k r) :
    UartCompletes s (es ++ fs) m (j + k) r := by
  have hall : (((s.emitAll es).marked m').withRun q).emitAll fs = ((s.emitAll (es ++ fs)).marked m').withRun q := by
    rw [emitAll_withRun, emitAll_marked, emitAll_append]
  obtain ⟨-, hcancelled, -⟩ := emitAll_frame s es
  obtain ⟨hreach, hidle, hturn, hprogress, hdone⟩ := h
  rw [hall] at hreach hprogress
  refine ⟨reaches_add hstep hreach, hidle, hturn, fun hc => hprogress (hcancelled.trans hc), fun hs => ?_⟩
  obtain ⟨hhost, hread, herr⟩ := halone hs
  obtain ⟨hhost', hread', herr'⟩ := hdone hhost
  exact ⟨hhost', hread'.trans hread, herr'.trans herr⟩

/-- A watched UART decode of the input of `a` that has not been cancelled, with `scan` as the scan state of its next
step. -/
structure UartDecoding (a s : State) (scan : UartScan) : Prop extends Watched .decodeUart s where
  input : SameInput a s
  scanAt : UartScanAt s scan
  notRequested : s.cancelReq = false
  notOverflowed : scan.work ≠ [] → s.evtOvf = false
  fits : s.evtCount.toNat ≤ s.eMax.toNat
  memory : s.mem.wf = true
  inWindow : ∀ role ch i, .ctrl role ch i ∈ scan.work → i < 2 ^ 21

section
variable {a s : State} {scan : UartScan} {item : UartItem} {rest : List UartItem} (h : UartDecoding a s scan)
  (hwork : scan.work = item :: rest)
include h hwork

/-- The step of one iteration: its events are emitted and its marks noted, and the scan goes on unless the event memory
overflows (R221). -/
theorem UartDecoding.iterates :
    ∃ j q, Reaches (j + 1) s (((s.emitAll (itemStep a scan.region item).events).marked
        ((s.marks scan).note a item)).withRun q) ∧
      q.seq = .uart (scan.goesOn ((s.marks scan).note a item)
        (if (s.emitAll (itemStep a scan.region item).events).evtOvf then []
          else (itemStep a scan.region item).next ++ rest)) ∧
      OnlyWatched (s.withRun q) ∧
      (s.host = [] → q.host = [] ∧ q.readData = s.readData ∧ q.busErr = s.busErr) := by
  obtain ⟨j, r, hr, hturn, -, hreach⟩ := reaches_sequencer_turn h.toWatched
  refine ⟨j, { r with seq := _ }, hreach _ ?_, rfl, hr.onlyWatched, hr.alone⟩
  have hitem : ∀ role ch i, item = .ctrl role ch i → i < 2 ^ 21 := by
    rintro role ch i rfl
    exact h.inWindow role ch i (hwork ▸ List.mem_cons_self)
  have hovf : s.evtOvf = false := h.notOverflowed (hwork ▸ List.cons_ne_nil _ _)
  have hinput : SameInput a (s.withRun r) := { h.input with }
  refine (exec_decodeUart_of_sequencer (s := s.withRun r) hturn).trans (congrArg _ ?_)
  rw [runUart_of_scanAt (uartScanAt_withRun h.scanAt hr.seq),
    uartStep_of_item (s := s.withRun r) hwork h.notRequested hovf, State.afterItem, hinput.itemStep_eq _ hitem,
    hinput.note_eq, emitAll_withRun]
  rfl

/-- After an iteration the decode goes on, with nothing left after an overflow. -/
theorem UartDecoding.next {q : RunState} {work : List UartItem} (hq : OnlyWatched (s.withRun q))
    (hnext : work = if (s.emitAll (itemStep a scan.region item).events).evtOvf then []
      else (itemStep a scan.region item).next ++ rest)
    (hseq : q.seq = .uart (scan.goesOn ((s.marks scan).note a item) work)) :
    UartDecoding a (((s.emitAll (itemStep a scan.region item).events).marked
      ((s.marks scan).note a item)).withRun q) (scan.goesOn ((s.marks scan).note a item) work) := by
  have hovf : s.evtOvf = false := h.notOverflowed (hwork ▸ List.cons_ne_nil _ _)
  obtain ⟨-, hfits, -⟩ := emitAll_room hovf h.fits (itemStep a scan.region item).events
  have hwatched : Watched .decodeUart ((s.emitAll (itemStep a scan.region item).events).withRun q) :=
    h.toWatched.emitAll_withRun _ hq (by rw [hseq]; rfl)
  have hsame := sameStore_emitAll h.memory (itemStep a scan.region item).events
  refine
    { hwatched with
      input := { h.input.toSameStore.trans { hsame with } with snap := ?snap, inWindow := h.input.inWindow }
      scanAt := .inl hseq
      notRequested := ?notRequested
      notOverflowed := fun hne => ?notOverflowed
      fits := hfits
      memory := emitAll_wf h.memory _
      inWindow := fun role ch i hmem => ?inWindow }
  case snap =>
    obtain ⟨_, _, _, e⟩ := emitAll_shape s (itemStep a scan.region item).events
    rw [e]
    exact h.input.snap
  case notRequested =>
    obtain ⟨_, _, _, e⟩ := emitAll_shape s (itemStep a scan.region item).events
    rw [e]
    exact h.notRequested
  case notOverflowed =>
    rw [← Bool.not_eq_true]
    intro ho
    have hnil : work = [] := hnext.trans (if_pos ho)
    exact hne hnil
  case inWindow =>
    have hmem' : UartItem.ctrl role ch i ∈ work := hmem
    rw [hnext] at hmem'
    split at hmem'
    · simp at hmem'
    · obtain hnew | hold := List.mem_append.1 hmem'
      · obtain hn | ⟨_, _, _, _, hn⟩ := itemStep_next_cases a scan.region item <;> simp [hn] at hnew
      · exact h.inWindow role ch i (hwork ▸ List.mem_cons_of_mem _ hold)

end

/-- A watched UART decode emits the events of every iteration left, as far as the event memory takes them, merges and
completes. -/
theorem uartDecoding_completes {a s : State} {scan : UartScan} (h : UartDecoding a s scan) :
    ∃ k r, UartCompletes s (workEvents a scan.region scan.work)
      (marksAfter a scan.region s.room (s.marks scan) scan.work) k r := by
  induction hn : workSteps a scan.work using Nat.strong_induction_on generalizing s scan with
  | _ n ih =>
    cases hwork : scan.work with
    | nil => exact uartCompletes_of_drained h.toWatched h.scanAt hwork rfl
    | cons item rest =>
      obtain ⟨j, q, hstep, hseq, hwatch, halone⟩ := h.iterates hwork
      have hovf : s.evtOvf = false := h.notOverflowed (hwork ▸ List.cons_ne_nil _ _)
      obtain ⟨hfull, -, hroom⟩ := emitAll_room hovf h.fits (itemStep a scan.region item).events
      have hdec := h.next hwork hwatch rfl hseq
      rw [workEvents_cons, itemEvents_eq, List.append_assoc, ← workEvents_append, marksAfter_cons]
      suffices hrest : ∃ k r, UartCompletes (((s.emitAll (itemStep a scan.region item).events).marked
          ((s.marks scan).note a item)).withRun q)
          (workEvents a scan.region ((itemStep a scan.region item).next ++ rest))
          (if s.room < (itemStep a scan.region item).events.length then (s.marks scan).note a item
            else marksAfter a scan.region (s.room - (itemStep a scan.region item).events.length)
              ((s.marks scan).note a item) ((itemStep a scan.region item).next ++ rest)) k r by
        obtain ⟨k, r, hdone⟩ := hrest
        exact ⟨_, r, hdone.after_step hstep halone⟩
      by_cases hlt : s.room < (itemStep a scan.region item).events.length
      · have hfull' : (s.emitAll (itemStep a scan.region item).events).evtOvf = true :=
          hfull.trans (decide_eq_true hlt)
        rw [if_pos hlt]
        rw [if_pos hfull'] at hdec
        exact uartCompletes_of_drained hdec.toWatched hdec.scanAt rfl (emitAll_of_overflowed (by exact hfull') _)
      · have hfree : ¬(s.emitAll (itemStep a scan.region item).events).evtOvf = true := by
          simpa [hfull] using Nat.le_of_not_lt hlt
        rw [if_neg hlt, ← hroom (Nat.le_of_not_lt hlt)]
        rw [if_neg hfree] at hdec
        refine ih _ ?_ hdec rfl
        have hfewer := workSteps_next_lt a scan.region item
        rw [← hn, hwork]
        simp only [workSteps, UartScan.goesOn, List.map_append, List.sum_append, List.map_cons,
          List.sum_cons] at hfewer ⊢
        omega

/-! ## The decode as it is accepted (R175, R180, R183) -/

/-- The iterations of a pass emit the events of its line. -/
theorem workEvents_passItems (s : State) (r : UartRegion) (role : Role) (ch : Nat) :
    workEvents s r (s.passItems r role ch) = lineEvents s r role ch := by
  cases role with
  | rxd | txd => exact List.flatMap_singleton _ _
  | _ => exact List.flatMap_map _ _ _

/-- The iterations of a decode emit its whole output. -/
theorem workEvents_uartScan (s : State) : workEvents s s.uartRegion s.uartScan.work = uartOutput s := by
  have hwork : s.uartScan.work = s.snap.usedLines.flatMap (fun l => s.passItems s.uartRegion l.1 l.2) := rfl
  rw [hwork, workEvents, List.flatMap_assoc, uartOutput]
  exact List.flatMap_congr fun l _ => workEvents_passItems s _ l.1 l.2

/-- The used lines in pass order: RxD if used, TxD if used, and then control lines only (R54, R180). -/
structure PassOrder (lines : List (Role × Nat)) (rx tx : Option Nat) (control : List (Role × Nat)) : Prop where
  eq : lines = rx.toList.map (Prod.mk .rxd) ++ (tx.toList.map (Prod.mk .txd) ++ control)
  notData : ∀ l ∈ control, l.1 ≠ .rxd ∧ l.1 ≠ .txd

/-- The channel of a binding, if it is used. -/
def LineBinding.channel? (l : LineBinding) : Option Nat := if l.used then some l.ch.toNat else none

theorem usedLines_passOrder (n : Snapshot) :
    ∃ control, PassOrder n.usedLines n.lines0.byte0.channel? n.lines0.byte1.channel? control := by
  refine ⟨((n.lines.drop 2).filter (fun l => l.2.used)).map (fun l => (l.1, l.2.ch.toNat)), ⟨?_, fun l hl => ?_⟩⟩
  · simp only [Snapshot.usedLines, Snapshot.lines, LineBinding.channel?, List.drop_succ_cons, List.drop_zero]
    rw [List.filter_cons, List.filter_cons]
    cases n.lines0.byte0.used <;> cases n.lines0.byte1.used <;> rfl
  · obtain ⟨b, hb, rfl⟩ := List.mem_map.1 hl
    have hrole : b.1 ∈ (n.lines.drop 2).map Prod.fst := List.mem_map_of_mem (List.mem_of_mem_filter hb)
    have hroles : (n.lines.drop 2).map Prod.fst = [.cts, .rts, .dtr, .dsr, .dcd, .ri] := rfl
    rw [hroles] at hrole
    constructor
    · rintro (h : b.1 = _)
      simp [h] at hrole
    · rintro (h : b.1 = _)
      simp [h] at hrole

section
variable {s : State} {rx tx : Option Nat} {control : List (Role × Nat)}
  (h : PassOrder s.snap.usedLines rx tx control)
include h

theorem PassOrder.mem_rxd_iff (ch : Nat) : (Role.rxd, ch) ∈ s.snap.usedLines ↔ rx = some ch := by
  have hc : (Role.rxd, ch) ∉ control := fun hm => (h.notData _ hm).1 rfl
  rw [h.eq]
  cases rx <;> cases tx <;> simp [hc, eq_comm]

theorem PassOrder.mem_txd_iff (ch : Nat) : (Role.txd, ch) ∈ s.snap.usedLines ↔ tx = some ch := by
  have hc : (Role.txd, ch) ∉ control := fun hm => (h.notData _ hm).2 rfl
  rw [h.eq]
  cases rx <;> cases tx <;> simp [hc, eq_comm]

theorem PassOrder.rxd_unused (hno : ∀ ch, (Role.rxd, ch) ∉ s.snap.usedLines) : rx = none :=
  Option.eq_none_iff_forall_ne_some.2 fun ch => mt (h.mem_rxd_iff ch).2 (hno ch)

theorem PassOrder.txd_unused (hno : ∀ ch, (Role.txd, ch) ∉ s.snap.usedLines) : tx = none :=
  Option.eq_none_iff_forall_ne_some.2 fun ch => mt (h.mem_txd_iff ch).2 (hno ch)

theorem PassOrder.rxdOutput_eq :
    rxdOutput s = rx.toList.flatMap (lineEvents s s.uartRegion .rxd) := by
  have hc : control.filter (fun l => l.1 == .rxd) = [] :=
    List.filter_eq_nil_iff.2 fun l hl => by simpa using (h.notData l hl).1
  rw [rxdOutput, h.eq, List.filter_append, List.filter_append, hc]
  cases rx <;> cases tx <;> simp

/-- The iterations of the control lines note nothing. -/
theorem PassOrder.control_unnoted :
    ∀ item ∈ control.flatMap (fun l => s.passItems s.uartRegion l.1 l.2), ∀ m : UartMarks, m.note s item = m := by
  intro item hitem m
  obtain ⟨⟨role, ch⟩, hl, hitem⟩ := List.mem_flatMap.1 hitem
  obtain ⟨hrx, htx⟩ := h.notData _ hl
  cases role with
  | rxd => exact absurd rfl hrx
  | txd => exact absurd rfl htx
  | _ =>
    obtain ⟨i, -, rfl⟩ := List.mem_map.1 hitem
    rfl

/-- The marks of a whole decode: the RxD estimate, and then the TxD estimate unless the RxD pass overflows the event
memory (R175, R221). -/
theorem PassOrder.marksAfter_eq (room : Nat) (m : UartMarks) :
    marksAfter s s.uartRegion room m s.uartScan.work =
      let m' := rx.elim m (fun ch => m.note s (.estimate .rxd ch))
      if room < (rxdOutput s).length then m' else tx.elim m' (fun ch => m'.note s (.estimate .txd ch)) := by
  have hunnoted (room : Nat) (m : UartMarks) := marksAfter_of_unnoted (r := s.uartRegion) room m h.control_unnoted
  have hwork : s.uartScan.work = s.snap.usedLines.flatMap (fun l => s.passItems s.uartRegion l.1 l.2) := rfl
  have htx (room : Nat) (m : UartMarks) :
      marksAfter s s.uartRegion room m
        ((tx.toList.map (Prod.mk Role.txd) ++ control).flatMap (fun l => s.passItems s.uartRegion l.1 l.2)) =
          tx.elim m (fun ch => m.note s (.estimate .txd ch)) := by
    cases tx with
    | none => exact hunnoted room m
    | some ch =>
      show marksAfter s s.uartRegion room m (.estimate .txd ch ::
        control.flatMap (fun l => s.passItems s.uartRegion l.1 l.2)) = _
      rw [marksAfter, hunnoted, ite_self]
      rfl
  rw [hwork, h.rxdOutput_eq, h.eq]
  cases rx with
  | none => exact htx room m
  | some ch =>
    show marksAfter s s.uartRegion room m (.estimate .rxd ch ::
      (tx.toList.map (Prod.mk Role.txd) ++ control).flatMap (fun l => s.passItems s.uartRegion l.1 l.2)) = _
    rw [marksAfter, htx, Option.toList_some, List.flatMap_singleton]
    rfl

/-- Either the marks are those of the RxD pass alone, or the TxD estimate has been noted after it. -/
theorem PassOrder.marksAfter_cases (room : Nat) (m : UartMarks) :
    let m' := rx.elim m (fun ch => m.note s (.estimate .rxd ch))
    (marksAfter s s.uartRegion room m s.uartScan.work = m' ∧ (room < (rxdOutput s).length ∨ tx = none)) ∨
      ∃ ch, tx = some ch ∧ (rxdOutput s).length ≤ room ∧
        marksAfter s s.uartRegion room m s.uartScan.work = m'.note s (.estimate .txd ch) := by
  rw [h.marksAfter_eq]
  by_cases hroom : room < (rxdOutput s).length
  · exact .inl ⟨if_pos hroom, .inl hroom⟩
  · cases tx with
    | none => exact .inl ⟨if_neg hroom, .inr rfl⟩
    | some ch => exact .inr ⟨ch, rfl, Nat.le_of_not_lt hroom, if_neg hroom⟩

/-- The RxD marks of a decode that begins without any (R183). -/
theorem PassOrder.marks_rxd (room : Nat) :
    let m := marksAfter s s.uartRegion room .unmarked s.uartScan.work
    m.baudRx = rx.elim 0#32 (fun ch => at32 (s.bitDuration ch)) ∧
      m.noBaudRx = rx.elim false (fun ch => s.bitDuration ch == 0) := by
  obtain ⟨e, -⟩ | ⟨_, -, -, e⟩ := h.marksAfter_cases room .unmarked
  all_goals
    rw [e]
    cases rx <;> exact ⟨rfl, rfl⟩

/-- The TxD marks of a decode that begins without any, where the RxD pass leaves the event memory whole (R183). -/
theorem PassOrder.marks_txd {room : Nat} (hroom : (rxdOutput s).length ≤ room) :
    let m := marksAfter s s.uartRegion room .unmarked s.uartScan.work
    m.baudTx = tx.elim 0#32 (fun ch => at32 (s.bitDuration ch)) ∧
      m.noBaudTx = tx.elim false (fun ch => s.bitDuration ch == 0) := by
  obtain ⟨e, hlt | rfl⟩ | ⟨ch, rfl, -, e⟩ := h.marksAfter_cases room .unmarked
  · omega
  all_goals
    rw [e]
    cases rx <;> exact ⟨rfl, rfl⟩

/-- A TxD pass that never starts leaves no mark (R175, R221). -/
theorem PassOrder.marks_txd_of_overflow {room : Nat} (hroom : room < (rxdOutput s).length) :
    let m := marksAfter s s.uartRegion room .unmarked s.uartScan.work
    m.baudTx = 0#32 ∧ m.noBaudTx = false := by
  obtain ⟨e, -⟩ | ⟨ch, -, hle, -⟩ := h.marksAfter_cases room .unmarked
  · rw [e]
    cases rx <;> exact ⟨rfl, rfl⟩
  · omega

end

theorem lt_of_mem_durationsFrom {time : Nat → Nat} {b : Nat} (h : ∀ i, time i < b) {prev d : Nat} {es : List Nat}
    (hd : d ∈ durationsFrom time prev es) : d < b := by
  induction es generalizing prev with
  | nil => simp [durationsFrom] at hd
  | cons i es ih =>
    rw [durationsFrom, List.mem_cons] at hd
    obtain rfl | hd := hd
    · exact Nat.lt_of_le_of_lt (Nat.sub_le _ _) (h i)
    · exact ih hd

/-- A bit duration is a difference of timestamps and fits a register. -/
theorem bitDuration_lt (s : State) (ch : Nat) : s.bitDuration ch < 2 ^ 32 := by
  rw [State.bitDuration]
  by_cases h : s.durations (1#32 <<< ch) = []
  · rw [h]
    decide
  · exact lt_of_mem_durationsFrom (fun i => BitVec.isLt _) (estimateOf_best_mem h)

/-- What an estimator run notes tells the bit duration, and whether it is 0. -/
theorem estimate_of_marks {s : State} {ch : Nat} {w : Word} {b : Bool}
    (h : w = at32 (s.bitDuration ch) ∧ b = (s.bitDuration ch == 0)) :
    w.toNat = (estimateOf (s.durations (1#32 <<< ch))).best ∧
      (b = true ↔ (estimateOf (s.durations (1#32 <<< ch))).best = 0) := by
  obtain ⟨rfl, rfl⟩ := h
  exact ⟨toNat_at32 (bitDuration_lt s ch), beq_iff_eq⟩

/-- A pass visits the transitions of the region only (R196). -/
theorem mem_ctrlIndices_of_mem_passItems {s : State} {r : UartRegion} {role role' : Role} {ch ch' i : Nat}
    (h : .ctrl role ch i ∈ s.passItems r role' ch') : i ∈ s.ctrlIndices r := by
  have hcontrol : UartItem.ctrl role ch i ∈ (s.ctrlIndices r).map (fun j => .ctrl role' ch' j) →
      i ∈ s.ctrlIndices r := by
    intro hmem
    obtain ⟨j, hj, e⟩ := List.mem_map.1 hmem
    cases e
    exact hj
  cases role' with
  | rxd | txd => simp [State.passItems] at h
  | _ => exact hcontrol h

/-- An accepted UART decode with a store is ready for its first iteration. -/
theorem uartDecoding_of_accepted {s : State} (h : ReadyForCommand s) (hv : s.storeValid = true) :
    UartDecoding (s.accept .decodeUart) (s.accept .decodeUart) (s.accept .decodeUart).uartScan := by
  have hwindow : s.nTrans.toNat ≤ 2 ^ 21 := nTrans_le_window h.inv.fields
  have hinput : SameInput (s.accept .decodeUart) (s.accept .decodeUart) :=
    { sameStore_of_mem_eq with snap := rfl, inWindow := hwindow }
  refine
    { platform := h.noReset.platform
      outOfReset := h.noReset.outOfReset
      onlyWatched := h.onlyWatched
      running := rfl
      notDone := rfl
      input := hinput
      scanAt := .inr ⟨⟨.decodeUart, rfl⟩, hv, rfl⟩
      notRequested := rfl
      notOverflowed := fun _ => rfl
      fits := Nat.zero_le _
      memory := h.inv.memory
      inWindow := fun role ch i hmem => ?_ }
  obtain ⟨l, -, hitem⟩ := List.mem_flatMap.1 hmem
  exact hinput.lt_of_mem_innerIndices (List.mem_of_mem_filter (mem_ctrlIndices_of_mem_passItems hitem))

/-- What a UART decode leaves is what it was accepted with, but for the fields that `decoded` lists and the marks. -/
theorem eq_decoded_of_uartDone {s t : State} {es : List Event} {m : UartMarks} {r : RunState}
    (ht : t = (((s.accept .decodeUart).emitAll es).uartDone m).withRun r) (hidle : r.seq = .idle)
    (hturn : r.turn = .sequencer) :
    t = { decoded s t with
          noBaudRx := t.noBaudRx, noBaudTx := t.noBaudTx, baudRx := t.baudRx, baudTx := t.baudTx } := by
  obtain ⟨_, _, _, e⟩ := emitAll_shape (s.accept .decodeUart) es
  obtain ⟨seq, _, _, _, _, turn, _⟩ := r
  obtain rfl : seq = .idle := hidle
  obtain rfl : turn = .sequencer := hturn
  rw [ht, e]
  dsimp only [decoded, State.withRun, State.uartDone, State.completeDecode, State.complete, State.marked,
    State.finalCounts, State.merge]
  rfl

end Sys2Proof.Machine
end

section
/-! CERTIFICATE. The statements about the UART decoder (spec/43_uart.md). -/

namespace Sys2Proof.Certificates

open Sys2Proof.Machine Sys2Proof.Safety Sys2Proof.Statement

/-- Settles O52: from the acceptance on, `uartDecoding_completes` by induction on the steps left; what the records are then
is said by `emittedInto_emitAll` and the merge, and what the estimates are by `PassOrder`. -/
theorem uartDecodeMergesItsWholeOutput : Obligations.UartDecodeMergesItsWholeOutput := by
  intro s h hv a' out'
  set a := s.accept .decodeUart
  set out := uartOutput a
  have hdec := uartDecoding_of_accepted h hv
  obtain ⟨k, q, hdone⟩ := uartDecoding_completes hdec
  obtain ⟨control, horder⟩ := usedLines_passOrder a.snap
  have hout : workEvents a a.uartScan.region a.uartScan.work = out := workEvents_uartScan a
  rw [hout] at hdone
  obtain ⟨hreach, hidle, hturn, hprogress, halone⟩ := hdone
  have hemit : EmittedInto a (a.emitAll out) out := emittedInto_emitAll hdec.memory rfl rfl out
  have hwf : (a.emitAll out).mem.wf = true := emitAll_wf hdec.memory out
  have hrecords : (a.emitAll out).merge.records = sortRecords (taken s.eMax.toNat out) := by
    rw [merge_records hwf, hemit.records]
    rfl
  obtain ⟨-, hcancelled, -⟩ := emitAll_frame a out
  have hrx := horder.marks_rxd a.room
  set m := marksAfter a a.uartScan.region a.room (a.marks a.uartScan) a.uartScan.work
  refine ⟨a, k, ((a.emitAll out).uartDone m).withRun q, ?accepted, hreach, ?notBusy, rfl, rfl,
    (uartDone_cancelled _ m q).trans hcancelled, (uartDone_evtOvf _ m q).trans hemit.overflow,
    (uartDone_records _ m q).trans hrecords, ?symbols, ?errors,
    fun ho => hprogress rfl ((uartDone_evtOvf _ m q).symm.trans ho), fun ch hch => ?rxd, fun hno => ?noRxd,
    fun ch hch hroom => ?txd, fun hno => ?noTxd,
    eq_decoded_of_uartDone rfl hidle hturn, halone, fun x hx => ?frame⟩
  case accepted =>
    refine (exec_command_of_host h.hostTurn .decodeUart).trans ?_
    rw [State.writeCommand, if_neg (by simp [h.idle])]
  case notBusy =>
    show q.seq.command.isSome = false
    rw [hidle]
    rfl
  case symbols =>
    rw [uartDone_symCount, hrecords, (sortRecords_perm _).countP_eq]
    exact toNat_countP_taken s.eMax out _
  case errors =>
    rw [uartDone_errCount, hrecords, (sortRecords_perm _).countP_eq]
    exact toNat_countP_taken s.eMax out _
  case rxd =>
    rw [(horder.mem_rxd_iff ch).1 hch] at hrx
    exact estimate_of_marks hrx
  case noRxd =>
    rw [horder.rxd_unused hno] at hrx
    exact hrx
  case txd =>
    have htx := horder.marks_txd (room := a.room) hroom
    rw [(horder.mem_txd_iff ch).1 hch] at htx
    exact estimate_of_marks htx
  case noTxd =>
    obtain hroom | hfull := Nat.lt_or_ge a.room (rxdOutput a).length
    · exact horder.marks_txd_of_overflow hroom
    · have htx := horder.marks_txd hfull
      rw [horder.txd_unused (hno.resolve_right (Nat.not_lt.2 hfull))] at htx
      exact htx
  case frame =>
    rw [uartDone_evtCount] at hx
    rw [uartDone_mem]
    exact (readByte_merge hwf hx).trans (hemit.frame x hx)

/-- Settles O43: the span check, then the search for the start edge (`find_innerIndices_of_leastIndex`), then one equation
for each outcome of the frame. -/
theorem dataLineIterationFollowsTheLoop : Obligations.DataLineIterationFollowsTheLoop := by
  intro s role ch bd pos t1 cfg start level p s2
  have hspan : 2 * cfg.dataBits.toNat + 2 * p + s2 = cfg.spanHalves := by
    rw [UartCfg.spanHalves, Parity.bits_eq, StopBits.halves_eq]
  have htest : ∀ i, 1 ≤ i →
      ((decide (pos ≤ s.t i) && decide (s.t i < t1) && s.qualifying ch i) = true ↔ start i) :=
    fun i hi => (startEdge_test_iff hi).trans startsFrame_iff
  rw [hspan]
  refine ⟨frameIterate_of_short_span role, fun hfits => ⟨fun hnone => ?_, fun e he => ?_⟩⟩
  · exact frameIterate_of_no_edge role (find_innerIndices_eq_none htest hnone)
  · have hedge : s.startEdge ch pos t1 = some e := find_innerIndices_of_leastIndex htest he
    refine ⟨frameIterate_of_end role hfits hedge, fun hlast => ⟨fun hbad => ?_, fun hgood => ?_⟩⟩
    · exact frameIterate_of_bad_start role hfits hedge hlast (bne_iff_ne.2 hbad)
    · exact frameIterate_of_good_start role hfits hedge hlast (bne_eq_false_iff_eq.2 hgood)

/-- Settles O44: `frameEvents` is put together in this order, and each parity case is one lemma. -/
theorem frameEventsInOrder : Obligations.FrameEventsInOrder := by
  intro s role ch bd s0 cfg received x tp
  refine ⟨s.parityEvents role ch bd s0 x, s.stopEvents role ch bd s0, rfl, parityEvents_of_none role,
    fun _ => parityEvents_of_match role, parityEvents_of_mismatch role, ?_⟩
  have hlow : (fun ts => !s.logical ch ts) = fun ts => decide (received ts = false) :=
    funext fun _ => Bool.decide_eq_false.symm
  rw [State.stopEvents, hlow]
  rfl

/-- Settles O45: the points by the stop setting; the first one lies a whole bit duration after the last sample before
it. -/
theorem stopSamplePoints : Obligations.StopSamplePoints := by
  intro c bd s0 hbd p base
  have hbase : s0 + (c.payloadBits + 1) * bd = base := by
    rw [UartCfg.payloadBits, Parity.bits_eq]
  have hprevious : s0 + (c.dataBits.toNat + p) * bd + bd = base := by
    rw [Nat.add_assoc, ← Nat.succ_mul]
  refine ⟨fun h => ?_, fun h => ?_, fun h => ?_, stopPoints_getLast? bd s0 c, fun ts hts => ?_,
    stopPoints_pairwise_lt bd s0 hbd⟩
  · rw [stopPoints_of_one bd s0 h, hbase]
  · rw [stopPoints_of_oneAndHalf bd s0 h, hbase]
  · rw [stopPoints_of_two bd s0 h, hbase]
  · have hfirst := base_le_of_mem_stopPoints bd s0 hts
    omega

/-- Settles O46: bit by bit, the last sampled bit first (`getLsbD_foldl_bits`). -/
theorem dataBitsAreLsbFirst : Obligations.DataBitsAreLsbFirst :=
  fun s ch bd s0 _ hk => getLsbD_dataWord s ch bd s0 hk

/-- Settles O47: the parity bit is set where the count of 1s alone misses its parity. -/
theorem parityBitMakesTheCount : Obligations.ParityBitMakesTheCount := by
  intro d x ones
  show (onesBelow d x + _) % 2 = 0 ∧ (onesBelow d x + _) % 2 = 1
  simp only [parityBit_even_iff, parityBit_odd_iff]
  constructor
  · split <;> omega
  · split <;> omega

/-- Settles O48: the step emits the events of its transition (`uartStep_of_item`), and the memory has room for them
(`emitAll_of_room`). -/
theorem controlLineStepNamesTheLevel : Obligations.ControlLineStepNamesTheLevel := by
  refine ⟨fun s r => ⟨ctrlIndices_pairwise_lt s r, fun i => mem_ctrlIndices⟩, ?_⟩
  intro s scan role ch i rest ht hscan hwork hc ho hroom hm hi
  have hlen := length_ctrlEvents_le s role ch i
  obtain ⟨hshape, hrecords, hframe⟩ := emitAll_of_room hm ho (es := s.ctrlEvents role ch i) (by omega)
  have hnoOvf : (s.emitAll (s.ctrlEvents role ch i)).evtOvf = false := (congrArg State.evtOvf hshape).trans ho
  refine ⟨s.uartEmit scan rest (s.ctrlEvents role ch i), ?step, ?seq, ?shape, fun h => ?_, fun h => ?_, fun h => ?_,
    fun a ha => hframe a (ha.imp_right fun hge => ?_)⟩
  case step => rw [exec_decodeUart_of_sequencer ht, runUart_of_scanAt hscan, uartStep_of_ctrl hwork hc]
  case seq =>
    rw [uartEmit_eq, hnoOvf]
    rfl
  case shape =>
    rw [uartEmit_eq, hshape]
    rfl
  · rw [ctrlEvents_of_rises role hi h] at hrecords ⊢
    exact hrecords
  · rw [ctrlEvents_of_falls role hi h] at hrecords ⊢
    exact hrecords
  · rw [ctrlEvents_of_level role hi h]
    exact ⟨rfl, rfl, rfl⟩
  · unfold eventAddr at hge ⊢
    omega

/-- Settles O50: an insertion sort that puts a record before the first one that is not earlier. -/
theorem mergeSortsStablyByTime : Obligations.MergeSortsStablyByTime :=
  ⟨fun rs => ⟨sortRecords_perm rs, sortRecords_timeOrdered rs, fun time => filter_sortRecords time rs⟩,
    fun _ => merge_records⟩

/-- Settles O51: each step is one branch of the scan, the completion by `completeDecode_eq`. -/
theorem uartCancelMergeAndCompletionSteps : Obligations.UartCancelMergeAndCompletionSteps := by
  intro s ht
  rw [exec_decodeUart_of_sequencer ht]
  refine ⟨fun scan role ch bd pos i rest hscan hwork hc => ?_, fun scan hscan hwork => ?_, fun rx tx hseq => ?_⟩
  · rw [runUart_of_scanAt hscan, uartStep_of_cancel hwork hc]
  · rw [runUart_of_scanAt hscan, uartStep_of_drained hwork]
    exact ⟨_, rfl, rfl, fun hm => ⟨merge_records hm, fun a => readByte_merge hm⟩⟩
  · rw [runUart_of_closing hseq, completeDecode_eq]

/-- Settles O42: one clause for each bound of the region. -/
theorem uartRegionFollowsTheBound : Obligations.UartRegionFollowsTheBound :=
  fun _ _ => ⟨uartRegion_of_cursors, uartRegion_of_trigger,
    fun hc ht => ⟨fun _ => uartRegion_of_edge hc ht, uartRegion_of_no_edge hc ht⟩⟩

/-- Settles O49: the passes by the role of their line, and the estimator run by its equation (`uartStep_of_estimate`). -/
theorem estimatorStepKeepsTheBitDuration : Obligations.EstimatorStepKeepsTheBitDuration := by
  refine ⟨fun s => ⟨rfl, rfl, rfl, rfl, ?_⟩, fun s scan ch rest ht hscan => ?_⟩
  · refine congrArg (fun f => s.snap.usedLines.flatMap f) (funext fun l => ?_)
    obtain ⟨role, ch⟩ := l
    cases role <;> rfl
  · rw [exec_decodeUart_of_sequencer ht, runUart_of_scanAt hscan]
    intro bd
    have hflag (b : Bool) : (if bd = 0 then true else b) = (b || bd == 0) := by
      by_cases h : bd = 0 <;> simp [h]
    have hwork (role : Role) :
        (if bd = 0 then rest else .frame role ch bd scan.t0 :: rest) =
          (itemStep s scan.region (.estimate role ch)).next ++ rest :=
      (estimate_next_append s scan.region role ch rest).symm
    rw [hflag, hflag, hwork, hwork]
    exact ⟨fun h => by rw [uartStep_of_estimate h]; rfl, fun h => by rw [uartStep_of_estimate h]; rfl⟩

end Sys2Proof.Certificates
end

section
/-! SUPPORT. The sequencer and the agents around it (spec/44_sequencer.md R215 to R224, spec/20_memory.md R79): who
takes a step, what the host can change while a command runs, what a step of a running command leaves alone, and the
count of steps that bounds every command. -/

namespace Sys2Proof.Machine

open Sys2Proof.Safety Sys2Proof.Statement

/-! ## Acceptance (R216) -/

theorem writeCommand_of_busy {s : State} (h : s.busy = true) (c : Command) :
    s.writeCommand c = { s with cmdOvr := true } := if_pos h

theorem writeCommand_of_idle {s : State} (h : s.busy = false) (c : Command) : s.writeCommand c = s.accept c :=
  if_neg (by simp [h])

/-- Acceptance field by field: only the fields that a decode clears depend on the command (R216). -/
theorem accept_eq (c : Command) (s : State) :
    s.accept c =
      { s with
        seq := .pending c
        done := false
        errCode := .ok
        cancelled := false
        evtOvf := false
        noBaudRx := false
        noBaudTx := false
        cancelReq := false
        snap := s.snapshot
        evtCount := if c = .decodeSpi ∨ c = .decodeUart then 0#32 else s.evtCount
        symCount := if c = .decodeSpi ∨ c = .decodeUart then 0#32 else s.symCount
        errCount := if c = .decodeSpi ∨ c = .decodeUart then 0#32 else s.errCount
        progress := if c = .decodeSpi ∨ c = .decodeUart then 0#7 else s.progress
        baudRx := if c = .decodeUart then 0#32 else s.baudRx
        baudTx := if c = .decodeUart then 0#32 else s.baudTx } := by
  obtain ⟨rfl, e⟩ | ⟨rfl, e⟩ | ⟨hspi, huart, e⟩ := accept_cases c s
  · exact e
  · exact e
  · simp only [e, hspi, huart, or_self, if_false]
    rfl

/-! ## Who takes a step (R79) -/

@[simp] theorem hardwarePublishes_seq (s : State) : s.hardwarePublishes.seq = s.seq := by
  obtain ⟨_, _, e⟩ := hardwarePublishes_shape s
  rw [e]

theorem hardwarePublishes_host (s : State) : { s.hardwarePublishes with host := s.host } = s.hardwarePublishes := by
  obtain ⟨_, _, e⟩ := hardwarePublishes_shape s
  rw [e]

/-- With nothing on the host's plan the step is the sequencer's. -/
theorem step_of_empty_host {s : State} (hp : s.platform = []) (hh : s.host = []) :
    step s = sequencerTurn s.hardwarePublishes := by
  rw [step_of_no_reset_event hp]
  simp only [agentsTurn, hh]

/-- While the host's next operation waits the step is the sequencer's, and the wait gets shorter. -/
theorem step_of_waiting_slot {s : State} {n : Nat} {op : HostOp} {rest : List HostSlot} (hp : s.platform = [])
    (hh : s.host = { delay := n + 1, op := op } :: rest) :
    step s = sequencerTurn { s.hardwarePublishes with host := { delay := n, op := op } :: rest } := by
  rw [step_of_no_reset_event hp]
  simp only [agentsTurn, hh, if_neg (Nat.succ_ne_zero n), Nat.add_sub_cancel]

/-- Without a reset event, a step is the turn of the host with its due operation, or the turn of the sequencer. -/
theorem step_cases_of_no_reset_event {s : State} (hp : s.platform = []) :
    (∃ op rest, s.host = { delay := 0, op := op } :: rest ∧
        step s = hostTurn op { s.hardwarePublishes with host := rest, turn := .host }) ∨
      ∃ plan, step s = sequencerTurn { s.hardwarePublishes with host := plan } := by
  cases hh : s.host with
  | nil => exact .inr ⟨s.host, by rw [step_of_empty_host hp hh, hardwarePublishes_host]⟩
  | cons slot rest =>
    obtain ⟨_ | n, op⟩ := slot
    · exact .inl ⟨op, rest, rfl, step_of_due_host hp hh⟩
    · exact .inr ⟨_, step_of_waiting_slot hp hh⟩

/-! ## What a step of a running command leaves alone -/

/-- PROGRESS, the plan and the input of the platform, and the operands of the running command. -/
def State.surroundings (s : State) : BitVec 7 × List ResetSlot × Bool × Snapshot :=
  (s.progress, s.platform, s.inReset, s.snap)

/-- `t` has the surroundings of `s`, and its store. -/
structure KeepsInput (s t : State) : Prop where
  surroundings : t.surroundings = s.surroundings
  store : s.mem.wf = true → SameStore s t

theorem keepsInput_of_mem_eq {s t : State} (hs : t.surroundings = s.surroundings := by rfl)
    (hm : t.mem = s.mem := by rfl) (hr : t.storeRegisters = s.storeRegisters := by rfl) : KeepsInput s t :=
  ⟨hs, fun _ => sameStore_of_mem_eq hm hr⟩

section
variable {s t : State} (h : KeepsInput s t)
include h

theorem KeepsInput.progress_eq : t.progress = s.progress := by
  have hs := h.surroundings
  simp only [State.surroundings, Prod.mk.injEq] at hs
  obtain ⟨e, -⟩ := hs
  exact e

theorem KeepsInput.noReset (hr : NoReset s) : NoReset t := by
  have hs := h.surroundings
  simp only [State.surroundings, Prod.mk.injEq] at hs
  obtain ⟨-, ep, er, -⟩ := hs
  exact ⟨ep.trans hr.platform, er.trans hr.outOfReset⟩

theorem KeepsInput.sameInput (hi : Inv s) : SameInput s t := by
  have hs := h.surroundings
  simp only [State.surroundings, Prod.mk.injEq] at hs
  obtain ⟨-, -, -, esnap⟩ := hs
  exact { h.store hi.memory with snap := esnap, inWindow := nTrans_le_window hi.fields }

end

/-- The point of the command is no input of it. -/
theorem KeepsInput.withSeq {s t : State} (h : KeepsInput s t) (q : Seq) : KeepsInput s { t with seq := q } :=
  ⟨h.surroundings, fun hm => { h.store hm with }⟩

/-- Emissions touch the event memory only, and no operand. -/
theorem keepsInput_emitAll (s : State) (es : List Event) : KeepsInput s (s.emitAll es) := by
  refine ⟨?_, fun hm => sameStore_emitAll hm es⟩
  obtain ⟨_, _, _, e⟩ := emitAll_shape s es
  rw [e]
  rfl

/-! ## The host's turn while a command runs (R49, R76, R216) -/

/-- What the host's turn keeps while a command runs: the command at its point and its input; and the host's plan, but
for a poll that found DONE 0 and comes again (R105). -/
structure HostKeeps (s t : State) : Prop extends KeepsInput s t where
  seq : t.seq = s.seq
  plan : t.host = s.host ∨ t.host = { delay := 1, op := .waitDone } :: s.host

theorem hostKeeps_of_eq {s t : State} (hk : KeepsInput s t := by exact keepsInput_of_mem_eq)
    (hseq : t.seq = s.seq := by rfl) (hh : t.host = s.host := by rfl) : HostKeeps s t :=
  { hk with seq := hseq, plan := .inl hh }

/-- The host's turn goes on and keeps the running command. -/
def KeepsRunning (s : State) (o : Host.Outcome State Fault Refusal) : Prop := ∃ t, o = .next t ∧ HostKeeps s t

theorem keepsRunning_next {s t : State} (h : HostKeeps s t) : KeepsRunning s (.next t) := ⟨t, rfl, h⟩

/-- An operation written by the host while a command runs: every other command and every locked register write is
dropped, and the two writes that no lock stops reach flags only. -/
theorem exec_of_busy_host {s : State} (ht : s.turn = .host) (hb : s.busy = true) (i : Instr) :
    KeepsRunning s (exec i s) := by
  have command (c : Command) : KeepsRunning s (exec c.instr s) := by
    rw [exec_command_of_host ht, writeCommand_of_busy hb]
    exact keepsRunning_next hostKeeps_of_eq
  have busyWrite (s' : State) : KeepsRunning s (.next (busyLocked s s')) := by
    rw [busyLocked_of_busy hb]
    exact keepsRunning_next hostKeeps_of_eq
  have storeWrite (s' : State) : KeepsRunning s (.next (storeLocked s s')) := by
    rw [storeLocked_of_locked (.inl hb)]
    exact keepsRunning_next hostKeeps_of_eq
  cases i with
  | nop => exact command .nop
  | storeClear => exact command .storeClear
  | storeCommit => exact command .storeCommit
  | queryIndex => exact command .queryIndex
  | queryValue => exact command .queryValue
  | estimateBaud => exact command .estimateBaud
  | decodeSpi => exact command .decodeSpi
  | decodeUart => exact command .decodeUart
  | illegalCmd opc rsvd => exact command (.illegal opc rsvd)
  | statusW1c | ctrlWr => exact keepsRunning_next hostKeeps_of_eq
  | stAbslenWr | stTriggerWr | stRateWr | stCfgWr | stEnmaskWr | pushValueWr | pushTs | rawSample =>
    exact storeWrite _
  | arg0Wr | cursorCtlWr | cursorAWr | cursorBWr | spiChWr | spiModeWr | uartCfgWr | uartLines0Wr | uartLines1Wr =>
    exact busyWrite _

theorem hostKeeps_dropWrite (r : WriteReject) (s : State) : HostKeeps s (s.dropWrite r) := by
  obtain ⟨-, e⟩ | ⟨-, e⟩ := dropWrite_cases r s <;> rw [e] <;> exact hostKeeps_of_eq

theorem hostKeeps_busRead (size : AccessSize) (a : Word) (s : State) : HostKeeps s (s.busRead size a) := by
  rw [busRead_frame]
  exact hostKeeps_of_eq

theorem hostKeeps_pollDone (s : State) : HostKeeps s s.pollDone := by
  rw [pollDone_eq]
  split
  · exact hostKeeps_of_eq
  · exact { keepsInput_of_mem_eq with seq := rfl, plan := .inr rfl }

theorem hostKeeps_hostInReset (op : HostOp) (s : State) : HostKeeps s (hostInReset op s) := by
  cases op with
  | write | read => exact hostKeeps_of_eq
  | waitDone => exact { keepsInput_of_mem_eq with seq := rfl, plan := .inr rfl }

/-- Whatever the host does in its turn, a running command stays at its point with its input. -/
theorem hostTurn_of_busy {s : State} (ht : s.turn = .host) (hb : s.busy = true) (op : HostOp) :
    KeepsRunning s (hostTurn op s) := by
  by_cases hr : s.inReset = true
  · exact ⟨_, if_pos hr, hostKeeps_hostInReset op s⟩
  · have hr : s.inReset = false := by simpa using hr
    cases op with
    | write b =>
      rw [hostTurn_write hr]
      cases hd : decodeWrite b with
      | operation i =>
        rw [deliver_of_operation hd]
        exact exec_of_busy_host ht hb i
      | rejected r => exact ⟨_, deliver_of_rejected hd s, hostKeeps_dropWrite r s⟩
    | read size a => exact ⟨_, hostTurn_read hr size a, hostKeeps_busRead size a s⟩
    | waitDone => exact ⟨_, hostTurn_waitDone hr, hostKeeps_pollDone s⟩

/-! ## The steps left (R223) -/

/-- A bound of the steps that the sequencer still takes from a point of a command, over the store and the operands of
`s`. A command that has not begun its rule has no bound yet; beginning it gives one. -/
def stepsLeft (s : State) : Seq → ℕ∞
  | .idle => 0
  | .pending _ => ⊤
  | .spi scan => ((scan.stop - scan.next + 1 : ℕ) : ℕ∞)
  | .uart scan => ((workSteps s scan.work + 2 : ℕ) : ℕ∞)
  | .spiClosing | .uartClosing _ _ => 1

theorem SameInput.workSteps_eq {s t : State} (h : SameInput s t) (work : List UartItem) :
    workSteps t work = workSteps s work := by
  have hnv : t.nv = s.nv := by rw [State.nv, State.nv, h.abs_eq, h.sampleIndexAt_eq]
  have hedges (pos : Nat) : t.edgesLeft pos = s.edgesLeft pos := by
    rw [State.edgesLeft, State.edgesLeft, h.innerIndices_eq]
    exact List.filter_congr fun i hi => by rw [(h.entry_eq (h.lt_of_mem_innerIndices hi)).2]
  have hitem : itemSteps t = itemSteps s := by
    funext item
    cases item <;> simp only [itemSteps, hnv, hedges]
  rw [workSteps, workSteps, hitem]

/-- The bound depends on the store and the operands only. -/
theorem SameInput.stepsLeft_eq {s t : State} (h : SameInput s t) (q : Seq) : stepsLeft t q = stepsLeft s q := by
  cases q with
  | uart scan => simp only [stepsLeft, h.workSteps_eq]
  | _ => rfl

/-- The turns that the host can take before the sequencer gets one: a due poll may come again, but not at once. -/
def hostTurnsLeft : List HostSlot → Nat
  | [] => 0
  | slot :: rest => 2 * rest.length + if slot.delay = 0 then 2 else 1

theorem hostTurnsLeft_le (plan : List HostSlot) : hostTurnsLeft plan ≤ 2 * plan.length := by
  cases plan with
  | nil => exact le_rfl
  | cons slot rest =>
    rw [hostTurnsLeft, List.length_cons]
    split <;> omega

/-- A due operation uses up one of these turns. -/
theorem HostKeeps.hostTurnsLeft_lt {s t : State} (h : HostKeeps s t) (op : HostOp) :
    hostTurnsLeft t.host < hostTurnsLeft ({ delay := 0, op := op } :: s.host) := by
  have hle := hostTurnsLeft_le s.host
  have hdue : hostTurnsLeft ({ delay := 0, op := op } :: s.host) = 2 * s.host.length + 2 := rfl
  have hpoll : hostTurnsLeft ({ delay := 1, op := .waitDone } :: s.host) = 2 * s.host.length + 1 := rfl
  obtain e | e := h.plan
  · rw [e, hdue]
    omega
  · rw [e, hdue, hpoll]
    exact Nat.lt_succ_self _

/-! ## The sequencer's turn (R218) -/

/-- The command is over, with DONE set (R233). -/
structure Completed (t : State) : Prop where
  idle : t.seq = .idle
  done : t.done = true

/-- A step of a decode at the point `q` leads to a later point of it and leaves its input alone. -/
structure Advances (s : State) (q : Seq) (t : State) : Prop extends KeepsInput s t where
  scanning : t.seq.scanning = true
  fewer : stepsLeft s t.seq < stepsLeft s q

/-- A step that begins a rule leaves a bounded number of steps. -/
theorem Advances.of_begin {s t : State} {q : Seq} (h : Advances s q t) (c : Command) : Advances s (.pending c) t :=
  { h with fewer := h.fewer.trans_le le_top }

theorem completed_complete (s : State) (e : ErrCode) : Completed (s.complete e) := ⟨rfl, rfl⟩

theorem completed_completeWith (body : State → Except ErrCode State) (s : State) : Completed (s.completeWith body) := by
  obtain ⟨u, -, e⟩ | ⟨code, -, e⟩ := completeWith_cases body s <;> rw [e]
  · exact completed_complete u .ok
  · exact completed_complete s code

theorem completed_completeDecode (s : State) : Completed s.completeDecode := completed_complete _ .ok

/-- A step of the SPI scan completes, or leaves fewer transitions. -/
theorem spiStep_advances (s : State) (scan : SpiScan) :
    Completed (s.spiStep scan) ∨ Advances s (.spi scan) (s.spiStep scan) := by
  by_cases hend : scan.stop ≤ scan.next
  · rw [spiStep_of_end hend]
    exact .inl (completed_completeDecode s)
  · have hlt : scan.next < scan.stop := Nat.lt_of_not_le hend
    have closing : stepsLeft s .spiClosing < stepsLeft s (.spi scan) :=
      Nat.one_lt_cast.2 (Nat.lt_add_of_pos_left (Nat.sub_pos_of_lt hlt))
    refine .inr ?_
    cases hc : s.cancelReq with
    | true =>
      rw [spiStep_of_cancel hlt hc]
      exact { keepsInput_of_mem_eq with scanning := rfl, fewer := closing }
    | false =>
      obtain ⟨hnext, hstop⟩ := spiIterate_next s scan
      have hkeeps := keepsInput_emitAll s (s.spiIterate scan).2
      have iterated : stepsLeft s (.spi (s.spiIterate scan).1) < stepsLeft s (.spi scan) := by
        rw [stepsLeft, stepsLeft, hnext, hstop, Nat.cast_lt]
        omega
      rw [spiStep_of_iteration hlt hc]
      split
      · exact { hkeeps.withSeq _ with scanning := rfl, fewer := closing }
      · exact { hkeeps.withSeq _ with scanning := rfl, fewer := iterated }

theorem workSteps_pos {s : State} {work : List UartItem} (h : work ≠ []) : 0 < workSteps s work := by
  cases work with
  | nil => exact absurd rfl h
  | cons item rest =>
    have hitem := workSteps_next_lt s { t0 := 0, t1 := 0 } item
    simp only [workSteps, List.map_cons, List.sum_cons]
    omega

/-- An iteration leaves fewer steps than it found. -/
theorem workSteps_append_lt (s : State) (r : UartRegion) (item : UartItem) (rest : List UartItem) :
    workSteps s ((itemStep s r item).next ++ rest) < workSteps s (item :: rest) := by
  have hitem := workSteps_next_lt s r item
  simp only [workSteps, List.map_append, List.sum_append, List.map_cons, List.sum_cons] at hitem ⊢
  omega

/-- A scan of a UART decode with fewer steps in its iterations. -/
theorem stepsLeft_uart_lt {s : State} {scan scan' : UartScan}
    (h : workSteps s scan'.work < workSteps s scan.work) : stepsLeft s (.uart scan') < stepsLeft s (.uart scan) :=
  Nat.cast_lt.2 (Nat.add_lt_add_right h 2)

/-- The events of an iteration are taken, and an overflow only drops iterations. -/
theorem uartEmit_advances {s : State} {scan : UartScan} {work : List UartItem} (es : List Event)
    (h : workSteps s work < workSteps s scan.work) : Advances s (.uart scan) (s.uartEmit scan work es) := by
  have hkeeps := keepsInput_emitAll s es
  refine { surroundings := hkeeps.surroundings, store := fun hm => { hkeeps.store hm with }, scanning := rfl,
           fewer := stepsLeft_uart_lt ?_ }
  dsimp only
  split
  · exact Nat.zero_lt_of_lt h
  · exact h

theorem uartCancel_advances {s : State} {scan : UartScan} (h : scan.work ≠ []) :
    Advances s (.uart scan) (s.uartCancel scan) :=
  { keepsInput_of_mem_eq with scanning := rfl, fewer := stepsLeft_uart_lt (workSteps_pos h) }

/-- A step of the UART scan leaves fewer steps: the merge is the last but one, and every other step is an iteration or
the poll that sees a cancel. -/
theorem uartStep_advances (s : State) (scan : UartScan) : Advances s (.uart scan) (s.uartStep scan) := by
  cases hwork : scan.work with
  | nil =>
    rw [uartStep_of_drained hwork]
    exact { surroundings := rfl, store := fun hm => ⟨fun _ hx => merge_readWord hm hx, rfl⟩, scanning := rfl,
            fewer := Nat.one_lt_cast.2 (by omega) }
  | cons item rest =>
    have hne : scan.work ≠ [] := by simp [hwork]
    have hfewer : workSteps s ((itemStep s scan.region item).next ++ rest) < workSteps s scan.work := by
      rw [hwork]
      exact workSteps_append_lt s scan.region item rest
    cases item with
    | estimate role ch =>
      rw [uartStep_of_estimate hwork]
      exact { keepsInput_of_mem_eq with scanning := rfl, fewer := stepsLeft_uart_lt hfewer }
    | frame role ch bd pos =>
      simp only [State.uartStep, hwork]
      split
      · exact uartCancel_advances hne
      · rw [uartFrame_eq]
        exact uartEmit_advances _ hfewer
    | ctrl role ch i =>
      simp only [State.uartStep, hwork]
      split
      · exact uartCancel_advances hne
      · exact uartEmit_advances _ hfewer

theorem runSpi_advances {s : State} (h : s.seq.command = some .decodeSpi) :
    Completed s.runSpi ∨ Advances s s.seq s.runSpi := by
  cases hseq : s.seq with
  | pending c =>
    cases hv : s.storeValid with
    | false =>
      rw [runSpi_of_open hseq hv]
      exact .inl (completed_complete s .noStore)
    | true =>
      cases hr : s.spiRegion with
      | none =>
        rw [runSpi_of_no_start hseq hv hr]
        exact .inl (completed_complete s .noStart)
      | some r =>
        rw [runSpi_of_scanAt (.inr ⟨⟨c, hseq⟩, hv, r, hr, rfl⟩)]
        exact (spiStep_advances s _).imp_right fun ha => ha.of_begin c
  | spi scan =>
    rw [runSpi_of_scanAt (.inl hseq)]
    exact spiStep_advances s scan
  | spiClosing =>
    rw [runSpi_of_closing hseq]
    exact .inl (completed_completeDecode s)
  | idle | uart | uartClosing => simp [hseq, Seq.command] at h

theorem runUart_of_open {s : State} {c : Command} (h : s.seq = .pending c) (hv : s.storeValid = false) :
    s.runUart = s.complete .noStore := by
  simp [State.runUart, h, State.uartBegin, hv]

theorem runUart_advances {s : State} (h : s.seq.command = some .decodeUart) :
    Completed s.runUart ∨ Advances s s.seq s.runUart := by
  cases hseq : s.seq with
  | pending c =>
    cases hv : s.storeValid with
    | false =>
      rw [runUart_of_open hseq hv]
      exact .inl (completed_complete s .noStore)
    | true =>
      rw [runUart_of_scanAt (.inr ⟨⟨c, hseq⟩, hv, rfl⟩)]
      exact .inr ((uartStep_advances s _).of_begin c)
  | uart scan =>
    rw [runUart_of_scanAt (.inl hseq)]
    exact .inr (uartStep_advances s scan)
  | uartClosing rx tx =>
    rw [runUart_of_closing hseq]
    exact .inl ⟨rfl, rfl⟩
  | idle | spi | spiClosing => simp [hseq, Seq.command] at h

theorem exec_nop_of_sequencer {s : State} (h : s.turn = .sequencer) : exec .nop s = .next (completed s .ok) :=
  commandStep_of_sequencer h .nop (State.complete .ok)

theorem exec_illegalCmd_of_sequencer {s : State} (h : s.turn = .sequencer) (opc : BitVec 8) (rsvd : BitVec 24) :
    exec (.illegalCmd opc rsvd) s = .next (completed s .illegalCmd) :=
  commandStep_of_sequencer h (.illegal opc rsvd) (State.complete .illegalCmd)

/-- In the sequencer's turn a running command completes, or it is a decode that comes to a later point (R218). -/
theorem exec_of_running {s : State} {c : Command} (ht : s.turn = .sequencer) (hc : s.seq.command = some c) :
    ∃ t, exec c.instr s = .next t ∧ (Completed t ∨ Advances s s.seq t) := by
  cases c with
  | nop => exact ⟨_, exec_nop_of_sequencer ht, .inl (completed_complete s _)⟩
  | illegal opc rsvd => exact ⟨_, exec_illegalCmd_of_sequencer ht opc rsvd, .inl (completed_complete s _)⟩
  | storeClear => exact ⟨_, exec_storeClear_of_sequencer ht, .inl (completed_complete _ _)⟩
  | storeCommit => exact ⟨_, exec_storeCommit_of_sequencer ht, .inl (completed_completeWith _ s)⟩
  | queryIndex => exact ⟨_, exec_queryIndex_of_sequencer ht, .inl (completed_completeWith _ s)⟩
  | queryValue => exact ⟨_, exec_queryValue_of_sequencer ht, .inl (completed_completeWith _ s)⟩
  | estimateBaud => exact ⟨_, exec_estimateBaud_of_sequencer ht, .inl (completed_completeWith _ s)⟩
  | decodeSpi => exact ⟨_, exec_decodeSpi_of_sequencer ht, runSpi_advances hc⟩
  | decodeUart => exact ⟨_, exec_decodeUart_of_sequencer ht, runUart_advances hc⟩

/-! ## A step of a running block (R79, R222, R223) -/

theorem busy_iff {s : State} : s.busy = true ↔ ∃ c, s.seq.command = some c := Option.isSome_iff_exists

theorem busy_of_scanning {s : State} (h : s.seq.scanning = true) : s.busy = true := by
  unfold State.busy
  cases hseq : s.seq <;> simp_all [Seq.scanning, Seq.command]

theorem Completed.not_busy {t : State} (h : Completed t) : t.busy = false := not_busy_of_idle h.idle

/-- `s` as an agent finds it in its turn: PROGRESS published, the host's plan as it is left, and the turn. -/
def State.handedTo (a : Agent) (plan : List HostSlot) (s : State) : State :=
  { s.hardwarePublishes with host := plan, turn := a }

theorem handedTo_frame (a : Agent) (plan : List HostSlot) (s : State) :
    ∃ p d, s.handedTo a plan = { s with progress := p, draws := d, host := plan, turn := a } := by
  obtain ⟨p, d, e⟩ := hardwarePublishes_shape s
  exact ⟨p, d, by rw [State.handedTo, e]⟩

section
variable (a : Agent) (plan : List HostSlot) (s : State)

@[simp] theorem handedTo_seq : (s.handedTo a plan).seq = s.seq := by
  obtain ⟨_, _, e⟩ := handedTo_frame a plan s
  rw [e]

@[simp] theorem handedTo_busy : (s.handedTo a plan).busy = s.busy := by
  rw [State.busy, handedTo_seq]
  rfl

theorem noReset_handedTo {s : State} (h : NoReset s) : NoReset (s.handedTo a plan) := by
  obtain ⟨_, _, e⟩ := handedTo_frame a plan s
  rw [e]
  exact { h with }

theorem inv_handedTo {s : State} (h : Inv s) : Inv (s.handedTo a plan) := inv_congr (inv_hardwarePublishes h)

theorem sameInput_handedTo {s : State} (h : Inv s) : SameInput s (s.handedTo a plan) := by
  obtain ⟨_, _, e⟩ := handedTo_frame a plan s
  rw [e]
  exact { sameStore_of_mem_eq with snap := rfl, inWindow := nTrans_le_window h.fields }

/-- What the hardware publishes is a bounded value that is not below the one before it (R222). -/
theorem progress_handedTo {s : State} (h : s.progress.toNat ≤ 100) :
    s.progress.toNat ≤ (s.handedTo a plan).progress.toNat ∧ (s.handedTo a plan).progress.toNat ≤ 100 := by
  show s.progress.toNat ≤ s.hardwarePublishes.progress.toNat ∧ s.hardwarePublishes.progress.toNat ≤ 100
  obtain ⟨-, e⟩ | ⟨-, e⟩ := hardwarePublishes_cases s <;> rw [e]
  · refine ⟨?_, publishProgress_le s⟩
    rw [State.publishProgress_progress, BitVec.toNat_ofNat]
    omega
  · exact ⟨le_rfl, h⟩

end

/-- A step of a running block that no reset event comes to is one of three: the host's turn, a turn that reset takes
from the sequencer, and the next step of the command. -/
theorem step_of_running_cases {s : State} (hp : s.platform = []) (hb : s.busy = true) :
    (∃ op rest t, s.host = { delay := 0, op := op } :: rest ∧ step s = .next t ∧
        HostKeeps (s.handedTo .host rest) t) ∨
      (s.inReset = true ∧ ∃ plan, step s = .next (s.handedTo s.turn plan)) ∨
      (s.inReset = false ∧ ∃ plan t, step s = .next t ∧
        (Completed t ∨ Advances (s.handedTo .sequencer plan) s.seq t)) := by
  obtain ⟨op, rest, hh, hstep⟩ | ⟨plan, hstep⟩ := step_cases_of_no_reset_event hp
  · obtain ⟨t, ht, hkeeps⟩ := hostTurn_of_busy (s := s.handedTo .host rest) rfl (by simpa using hb) op
    exact .inl ⟨op, rest, t, hh, hstep.trans ht, hkeeps⟩
  · obtain ⟨c, hc⟩ := busy_iff.1 hb
    refine .inr ?_
    cases hr : s.inReset with
    | true =>
      refine .inl ⟨rfl, plan, hstep.trans ?_⟩
      obtain ⟨_, _, e⟩ := hardwarePublishes_shape s
      rw [sequencerTurn, if_pos (by simpa using hr), State.handedTo, e]
    | false =>
      obtain ⟨t, ht, hcases⟩ := exec_of_running (s := s.handedTo .sequencer plan) rfl (by simpa using hc)
      rw [handedTo_seq] at hcases
      have hturn := sequencerTurn_of_command (s := { s.hardwarePublishes with host := plan }) (c := c)
        (by simpa using hr) (by simpa using hc)
      exact .inr ⟨rfl, plan, t, hstep.trans (hturn.trans ht), hcases⟩

/-- What gets smaller with every step of a running block: the sequencer's steps left, or the host's turns before the
next of them. -/
def State.rank (s : State) : ℕ∞ ×ₗ ℕ := toLex (stepsLeft s s.seq, hostTurnsLeft s.host)

/-- A running block that is not reset completes its command in the next step, or runs on with a smaller rank. -/
theorem step_of_running_command {s : State} (h : Inv s) (hr : NoReset s) (hb : s.busy = true) :
    ∃ t, step s = .next t ∧ (Completed t ∨ NoReset t ∧ t.busy = true ∧ t.rank < s.rank) := by
  obtain ⟨op, rest, t, hh, hstep, hkeeps⟩ | ⟨hreset, -⟩ | ⟨-, plan, t, hstep, hdone | hadv⟩ :=
    step_of_running_cases hr.platform hb
  · refine ⟨t, hstep, .inr ⟨hkeeps.noReset (noReset_handedTo .host rest hr), ?_, Prod.Lex.toLex_lt_toLex.2 (.inr ?_)⟩⟩
    · rw [State.busy, hkeeps.seq, handedTo_seq]
      exact hb
    · refine ⟨?_, hh ▸ hkeeps.hostTurnsLeft_lt op⟩
      rw [(hkeeps.sameInput (inv_handedTo .host rest h)).stepsLeft_eq,
        (sameInput_handedTo .host rest h).stepsLeft_eq, hkeeps.seq, handedTo_seq]
  · simp [hr.outOfReset] at hreset
  · exact ⟨t, hstep, .inl hdone⟩
  · refine ⟨t, hstep, .inr ⟨hadv.noReset (noReset_handedTo .sequencer plan hr), busy_of_scanning hadv.scanning,
      Prod.Lex.toLex_lt_toLex.2 (.inl ?_)⟩⟩
    have hfewer := hadv.fewer
    rwa [← (hadv.sameInput (inv_handedTo .sequencer plan h)).stepsLeft_eq,
      (sameInput_handedTo .sequencer plan h).stepsLeft_eq s.seq] at hfewer

/-- From every running state of the invariant, by induction on the rank. -/
theorem reaches_completed {s : State} (h : Inv s) (hr : NoReset s) (hb : s.busy = true) :
    ∃ k t, Reaches k s t ∧ Completed t := by
  induction hrank : s.rank using WellFoundedLT.induction generalizing s with
  | ind _ ih =>
    obtain ⟨t, hstep, hdone | ⟨hr', hb', hlt⟩⟩ := step_of_running_command h hr hb
    · exact ⟨1, t, reaches_succ hstep (reaches_zero t), hdone⟩
    · obtain ⟨k, u, hrun, hdone⟩ := ih t.rank (hrank ▸ hlt) (keepsInv_step h t hstep) hr' hb' rfl
      exact ⟨k + 1, u, reaches_succ hstep hrun, hdone⟩

/-- A step after which a command still runs leaves PROGRESS as it was published. -/
theorem progress_of_running_step {s t : State} (hp : s.platform = []) (hb : s.busy = true) (hstep : step s = .next t)
    (ht : t.busy = true) : ∃ a plan, t.progress = (s.handedTo a plan).progress := by
  obtain ⟨-, rest, t', -, e, hkeeps⟩ | ⟨-, plan, e⟩ | ⟨-, plan, t', e, hdone | hadv⟩ := step_of_running_cases hp hb
  all_goals obtain rfl := Host.Outcome.next.inj (hstep.symm.trans e)
  · exact ⟨.host, rest, hkeeps.progress_eq⟩
  · exact ⟨s.turn, plan, rfl⟩
  · simp [hdone.not_busy] at ht
  · exact ⟨.sequencer, plan, hadv.progress_eq⟩

end Sys2Proof.Machine
end

section
/-! CERTIFICATE. The statements about the sequencer (spec/44_sequencer.md). -/

namespace Sys2Proof.Certificates

open Sys2Proof.Machine Sys2Proof.Safety Sys2Proof.Statement

/-- Settles O53: by induction on the steps that the sequencer has left and the turns that the host can take before the
next of them (`step_of_running_command`). -/
theorem everyCommandCompletes : Obligations.EveryCommandCompletes := by
  intro s h hr hb
  obtain ⟨k, t, hrun, hdone⟩ := reaches_completed h hr hb
  exact ⟨k, t, hrun, hdone.not_busy, hdone.done⟩

/-- Settles O54: the value published before the step is bounded (`progress_handedTo`), and a step after which the decode
still runs leaves it (`progress_of_running_step`). -/
theorem progressNeverFalls : Obligations.ProgressNeverFalls := by
  intro s t hle hp hstep ht _ hdecode
  have hb : s.busy = true :=
    busy_iff.2 (((Seq.isDecode_iff s.seq).1 hdecode).elim (fun e => ⟨_, e⟩) fun e => ⟨_, e⟩)
  obtain ⟨a, plan, e⟩ := progress_of_running_step hp hb hstep ht
  rw [e]
  exact progress_handedTo a plan hle

/-- Settles O5: neither an empty plan nor one that waits gives the host a turn (`step_of_empty_host`,
`step_of_waiting_slot`). -/
theorem stepRunsTheRunningCommand : Obligations.StepRunsTheRunningCommand := by
  intro s c hp hr hc
  refine ⟨fun hh => ?_, fun n op rest hh => ?_⟩
  · rw [step_of_empty_host hp hh]
    exact sequencerTurn_of_command (by simpa using hr) (by simpa using hc)
  · rw [step_of_waiting_slot hp hh]
    exact sequencerTurn_of_command (by simpa using hr) (by simpa using hc)

/-- Settles O14: the two outcomes of a CMD write, the acceptance field by field (`accept_eq`). -/
theorem commandWriteIsAcceptedOrDropped : Obligations.CommandWriteIsAcceptedOrDropped := by
  intro c s ht
  rw [exec_command_of_host ht]
  exact ⟨fun hb => by rw [writeCommand_of_busy hb], fun hb => by rw [writeCommand_of_idle hb, accept_eq]⟩

/-- Settles O27: the completion step of either word. -/
theorem nopAndReservedWordComplete : Obligations.NopAndReservedWordComplete :=
  fun _ opc rsvd ht => ⟨exec_nop_of_sequencer ht, exec_illegalCmd_of_sequencer ht opc rsvd⟩

end Sys2Proof.Certificates
end

section
/-! SUPPORT. Where other hardware takes exceptions (spec/60_exceptions.md): every turn of every agent goes on, an idle
sequencer has nothing to do, and what holds the interrupt output low. -/

namespace Sys2Proof.Machine

open Sys2Proof.Safety

/-! ## An idle sequencer (R255) -/

/-- Without a running command the sequencer holds all state, in reset and out of it. -/
theorem sequencerTurn_of_no_command {s : State} (h : s.seq.command = none) : sequencerTurn s = .next s := by
  rw [sequencerTurn, h]
  exact ite_self _

/-! ## No trap (R237) -/

/-- A CMD operation goes on in the turn of either agent. -/
theorem commandStep_goesOn (c : Command) (run : State → State) (s : State) : ∃ t, commandStep c run s = .next t := by
  obtain ⟨-, e⟩ | ⟨-, e⟩ := commandStep_cases c run s <;> exact ⟨_, e⟩

/-- No operation is refused: a CMD operation is a step of its command, an MMIO operation writes its register. -/
theorem exec_goesOn (i : Instr) (s : State) : ∃ t, exec i s = .next t := by
  cases i with
  | storeClear => exact commandStep_goesOn .storeClear (fun u => u.clearStore.complete .ok) s
  | nop | storeCommit | queryIndex | queryValue | estimateBaud | decodeSpi | decodeUart | illegalCmd =>
    exact commandStep_goesOn _ _ s
  | statusW1c | ctrlWr | stAbslenWr | stTriggerWr | stRateWr | stCfgWr | stEnmaskWr | pushValueWr | pushTs | rawSample
  | arg0Wr | cursorCtlWr | cursorAWr | cursorBWr | spiChWr | spiModeWr | uartCfgWr | uartLines0Wr | uartLines1Wr =>
    exact ⟨_, rfl⟩

/-- A write that is no operation is dropped, and the block goes on. -/
theorem deliver_goesOn (b : BusWrite) (s : State) : ∃ t, deliver b s = .next t := by
  cases hd : decodeWrite b with
  | operation i =>
    rw [deliver_of_operation hd]
    exact exec_goesOn i s
  | rejected r => exact ⟨_, deliver_of_rejected hd s⟩

theorem hostTurn_goesOn (op : HostOp) (s : State) : ∃ t, hostTurn op s = .next t := by
  cases hr : s.inReset with
  | true => exact ⟨hostInReset op s, if_pos hr⟩
  | false =>
    cases op with
    | write b =>
      rw [hostTurn_write hr]
      exact deliver_goesOn b s
    | read size a => exact ⟨_, hostTurn_read hr size a⟩
    | waitDone => exact ⟨_, hostTurn_waitDone hr⟩

theorem sequencerTurn_goesOn (s : State) : ∃ t, sequencerTurn s = .next t := by
  cases hr : s.inReset with
  | true => exact ⟨s, if_pos hr⟩
  | false =>
    cases hc : s.seq.command with
    | none => exact ⟨s, sequencerTurn_of_no_command hc⟩
    | some c =>
      rw [sequencerTurn_of_command hr hc]
      exact exec_goesOn c.instr _

theorem agentsTurn_goesOn (s : State) : ∃ t, agentsTurn s = .next t := by
  unfold agentsTurn
  split
  · exact sequencerTurn_goesOn _
  · split_ifs
    · exact hostTurn_goesOn _ _
    · exact sequencerTurn_goesOn _

/-- Whichever agent takes the step, the machine has a next state. -/
theorem step_goesOn (s : State) : GoesOn s := by
  unfold GoesOn step anyTurn
  split
  · exact agentsTurn_goesOn s
  · split_ifs
    · exact ⟨_, rfl⟩
    · exact agentsTurn_goesOn _

/-! ## The interrupt output (R240) -/

theorem irq_of_not_done {s : State} (h : s.done = false) : s.irq = false := by
  rw [State.irq, h, Bool.false_and]

theorem irq_of_not_enabled {s : State} (h : s.irqEn = false) : s.irq = false := by
  rw [State.irq, h, Bool.and_false]

/-- A completion raises IRQ to its enable, whatever the code. -/
theorem irq_complete (s : State) (code : ErrCode) : (s.complete code).irq = s.irqEn := Bool.true_and _

theorem accept_done (c : Command) (s : State) : (s.accept c).done = false := by rw [accept_eq]

/-- A W1C bit that is written 1 is 0 after the write (R25). -/
theorem w1c_of_written {old written : Bool} (h : written = true) : w1c old written = false := by simp [w1c, h]

end Sys2Proof.Machine
end

section
/-! CERTIFICATE. The statements about exceptions (spec/60_exceptions.md R237, R240, R255). -/

namespace Sys2Proof.Certificates

open Sys2Proof.Machine

/-- Settles O6: nothing is published while no decode scans (`hardwarePublishes_of_unscanned`), and the turn is that of an
idle sequencer (`sequencerTurn_of_no_command`). -/
theorem idleBlockHoldsItsState : Obligations.IdleBlockHoldsItsState := by
  intro s hh hp hs
  have hcommand : s.seq.command = none := by rw [hs]; rfl
  have hscan : s.seq.scanning = false := by rw [hs]; rfl
  calc step s = sequencerTurn s.hardwarePublishes := step_of_empty_host hp hh
    _ = sequencerTurn s := by rw [hardwarePublishes_of_unscanned hscan]
    _ = .next s := sequencerTurn_of_no_command hcommand

/-- Settles O7: turn by turn, down to the operations (`exec_goesOn`). -/
theorem everyStepGoesOn : Obligations.EveryStepGoesOn := step_goesOn

/-- Settles O55: a W1C write and an acceptance clear DONE (`irq_of_not_done`), a write of CTRL can clear the enable
(`irq_of_not_enabled`). -/
theorem interruptFollowsDone : Obligations.InterruptFollowsDone := by
  refine ⟨fun s => Bool.and_eq_true_iff, fun n e => irq_of_not_done rfl, irq_complete, ?accept, ?w1c, ?enable⟩
  case accept =>
    intro s t c ht hb hexec
    rw [exec_command_of_host ht, writeCommand_of_idle hb] at hexec
    obtain rfl := Host.Outcome.next.inj hexec
    exact irq_of_not_done (accept_done c s)
  case w1c =>
    intro s t w hw hexec
    obtain rfl := Host.Outcome.next.inj ((exec_statusW1c w s).symm.trans hexec)
    exact irq_of_not_done (w1c_of_written hw)
  case enable =>
    intro s t w hw hexec
    obtain rfl := Host.Outcome.next.inj ((exec_ctrlWr w s).symm.trans hexec)
    exact ⟨irq_of_not_enabled hw, rfl⟩

end Sys2Proof.Certificates
end

section
/-! SUPPORT. The reset input (spec/70_reset_and_hazards.md R260 to R263): the reset values that a reader sees, the
invariant of a block that has just been reset, and the step of a reset event and of a host access in reset. -/

namespace Sys2Proof.Machine

open Sys2Proof.Safety Sys2Proof.Statement

/-! ## The reset values (R261) -/

/-- The state after reset is a reset block: what holds of every reset block holds of it. -/
theorem resetBlock_resetWith (n e : Word) : (State.resetWith n e).resetBlock = State.resetWith n e := rfl

/-- Only NMAX and EMAX tell one reset block from another: every register of `zeroAtReset` reads as in the block with
capacities 0. -/
theorem map_register_resetBlock (s : State) :
    zeroAtReset.map s.resetBlock.register = zeroAtReset.map (State.resetWith 0#32 0#32).register := rfl

theorem register_resetBlock_of_zeroAtReset (s : State) {a : Nat} (ha : a ∈ zeroAtReset) :
    s.resetBlock.register a = some 0#32 := by
  have zeros : ∀ b ∈ zeroAtReset, (State.resetWith 0#32 0#32).register b = some 0#32 := by decide
  exact (List.map_inj_left.1 (map_register_resetBlock s) a ha).trans (zeros a ha)

/-- With N = 0 no entry of the transition window is valid, whatever the memory holds (R74). -/
theorem transitionWord_of_empty {s : State} (h : s.nTrans = 0#32) (a : Nat) : s.transitionWord a = 0#32 := by
  simp [State.transitionWord, h]

/-- With EVT_COUNT = 0 no record of the event window is valid, whatever the memory holds (R75). -/
theorem eventWord_of_empty {s : State} (h : s.evtCount = 0#32) (a : Nat) : s.eventWord a = 0#32 := by
  simp [State.eventWord, h]

theorem atReset_resetBlock (s : State) : AtReset s.nMax s.eMax s.resetBlock :=
  have stCfg : s.resetBlock.register 0x050 = some 0x00000020#32 := congrArg some stCfgWord_reset
  have spiMode : s.resetBlock.register 0x084 = some 0x00000800#32 := congrArg some SpiMode.toWord_reset
  have uartCfg : s.resetBlock.register 0x088 = some 0x00000800#32 := congrArg some UartCfg.toWord_reset
  ⟨rfl, rfl, rfl, stCfg, spiMode, uartCfg, fun _ ha => register_resetBlock_of_zeroAtReset s ha, rfl, rfl,
    irq_of_not_done rfl, rfl, fun a => ⟨transitionWord_of_empty rfl a, eventWord_of_empty rfl a⟩⟩

/-- The level of the reset input is no item of the reset table. -/
theorem atReset_resetEvent (s : State) (ev : ResetEvent) : AtReset s.nMax s.eMax (s.resetEvent ev) := by
  cases ev with
  | assert => exact atReset_resetBlock s
  | release => exact atReset_resetBlock s

/-! ## The invariant of a reset block -/

theorem fieldInv_resetBlock {s : State} (hn : 1 ≤ s.nMax.toNat ∧ s.nMax.toNat ≤ 2 ^ 21)
    (he : 1 ≤ s.eMax.toNat ∧ s.eMax.toNat ≤ 2 ^ 21) : FieldInv s.resetBlock where
  nMax := hn
  eMax := he
  nTrans := Nat.zero_le _
  evtCount := Nat.zero_le _
  progress := Nat.zero_le _
  channels := (by decide : 1 ≤ (32#6).toNat ∧ (32#6).toNat ≤ 32)
  spiBits := (by decide : 4 ≤ SpiMode.reset.bits.toNat ∧ SpiMode.reset.bits.toNat ≤ 16)
  dataBits := (by decide : 5 ≤ UartCfg.reset.dataBits.toNat ∧ UartCfg.reset.dataBits.toNat ≤ 9)

/-- Legal capacities and a memory in canonical form are all that a reset block needs of the state before it. -/
theorem inv_resetBlock {s : State} (hm : s.mem.wf = true) (hn : 1 ≤ s.nMax.toNat ∧ s.nMax.toNat ≤ 2 ^ 21)
    (he : 1 ≤ s.eMax.toNat ∧ s.eMax.toNat ≤ 2 ^ 21) : Inv s.resetBlock where
  memory := hm
  fields := fieldInv_resetBlock hn he
  load := { fresh := fun _ => ⟨rfl, rfl⟩, raw := nofun, committed := nofun }
  store := nofun
  sequencer := sequencerInv_of_idle rfl rfl nofun

/-! ## Steps around the reset input (R260, R263) -/

/-- A due reset event is the whole step: no agent of the block or of the host takes a turn in it. -/
theorem step_of_due_reset_event {s : State} {ev : ResetEvent} {rest : List ResetSlot}
    (hp : s.platform = { delay := 0, event := ev } :: rest) :
    step s = .next (State.resetEvent ev { s with platform := rest }) := by
  simp only [step, anyTurn, hp, if_true]

theorem hostTurn_in_reset {s : State} (h : s.inReset = true) (op : HostOp) : hostTurn op s = .next (hostInReset op s) :=
  if_pos h

/-- The step of a due host operation in reset: an idle sequencer publishes nothing before it. -/
theorem step_of_due_host_in_reset {s : State} {op : HostOp} {rest : List HostSlot} (hr : s.inReset = true)
    (hs : s.seq = .idle) (hp : s.platform = []) (hh : s.host = { delay := 0, op := op } :: rest) :
    step s = .next (hostInReset op { s with host := rest, turn := .host }) := by
  have hscan : s.seq.scanning = false := by rw [hs]; rfl
  rw [step_of_due_host hp hh, hardwarePublishes_of_unscanned hscan]
  exact hostTurn_in_reset (s := { s with host := rest, turn := .host }) hr op

end Sys2Proof.Machine
end

section
/-! CERTIFICATE. The statements about reset (spec/70_reset_and_hazards.md R260, R261, R263). -/

namespace Sys2Proof.Certificates

open Sys2Proof.Machine

/-- Settles O8: the state after reset is a reset block with an empty memory (`inv_resetBlock`). -/
theorem invariantHoldsAtReset : Obligations.InvariantHoldsAtReset := by
  intro n e hn hn' he he'
  rw [← resetBlock_resetWith]
  exact inv_resetBlock Memory.wf_nil ⟨hn, hn'⟩ ⟨he, he'⟩

/-- Settles O11: a reset block holds every reset value (`atReset_resetBlock`), and the state after reset is one. -/
theorem resetGivesTheResetValues : Obligations.ResetGivesTheResetValues :=
  ⟨fun n e => atReset_resetBlock (State.resetWith n e), atReset_resetEvent⟩

/-- Settles O12: the step is the assertion itself, whatever command was running (`step_of_due_reset_event`). -/
theorem resetAbandonsTheRunningCommand : Obligations.ResetAbandonsTheRunningCommand := by
  intro s rest _ hp
  exact ⟨_, step_of_due_reset_event hp, rfl, rfl, irq_of_not_done rfl, atReset_resetEvent _ .assert⟩

/-- Settles O13: both accesses are host turns in reset (`step_of_due_host_in_reset`). -/
theorem accessesInResetHaveNoEffect : Obligations.AccessesInResetHaveNoEffect := by
  intro s rest hr hs hp
  exact ⟨fun b hh => step_of_due_host_in_reset hr hs hp hh, fun size a hh => step_of_due_host_in_reset hr hs hp hh⟩

end Sys2Proof.Certificates
end
